-- ==== Sys2Proof/Word.lean ====
section
/-! DEFINITION. The fixed-width types of 00_scope.md R7: `u8`, `u16`, `u7` and the bits of an `f64`. -/

namespace Sys2Proof

/-- `u8`: a byte of a report, a CommandCode. -/
abbrev Byte := BitVec 8

/-- `u16`: a RawWord. -/
abbrev Word := BitVec 16

/-- `u7`: an SmbusAddress, valid in [0x08, 0x77] (R9, R31). -/
abbrev Addr := BitVec 7

/-- `f64`: the 64 bits of an IEEE-754 binary64 value (R7, R82). -/
abbrev F64 := BitVec 64

end Sys2Proof
end

