-- ==== Sys2Proof/Config.lean ====
section
/-! DEFINITION. What is fixed for the machine: the constants of 00_scope.md R4, the parameters of R5 with their
defaults, and the free values (constants with no body) of what the spec leaves open. -/

namespace Sys2Proof

/-- Answer of `HidOpen`, `HidClose` and `HidWrite` (R126). -/
inductive LinkStatus where
  | ok
  | error
  deriving DecidableEq, Repr, Inhabited

/-- Answer of `HidEnumerate` (R126, R141): the matching devices in LINK's own order, or an error. -/
inductive EnumAnswer where
  | devices (ds : List Nat)
  | error
  deriving DecidableEq, Repr, Inhabited

/-- Answer of `HidRead` (R8, R126). -/
inductive ReadAnswer where
  | report (r : List Byte)
  | timeout
  | error
  deriving DecidableEq, Repr, Inhabited

/-- L11ENC_TIE (R5, R83). `open_` is the spec's default: neither rule is taken and both neighbours are admitted,
so the neighbour is a free value (D18, U2, log 7). -/
inductive Tie where
  | even
  | away
  | open_
  deriving DecidableEq, Repr

/-- L11ENC_OVERFLOW (R5, R83, D19). -/
inductive Overflow where
  | refuse
  | wrap
  | saturate
  deriving DecidableEq, Repr

/-- CONNECT_WHEN_CONNECTED (R5, R141, D13). -/
inductive Reconnect where
  | refuse
  | noopTrue
  | reopen
  deriving DecidableEq, Repr

/-- The parameters of R5, fixed for the life of the model (R19b): no step writes one.
L_OUT and L_IN are held as what they have above MIN_REPORT_LEN, so a length below 64 cannot be built (R229, U18). -/
structure Params where
  lOutExtra : Nat
  lInExtra : Nat
  vid : Word
  pid : Word
  fill : Byte
  tie : Tie
  overflow : Overflow
  reconnect : Reconnect
  statusTable : Vector String 16
  noFaultText : String
  deriving DecidableEq, Repr

namespace Config

/-! The constants of R4. -/

def reportId : Byte := 0x00
def opcWrite : Byte := 0x57
def opcRead : Byte := 0x52
def ackOk : Byte := 0x01
def maxPayload : Nat := 60
def addrLo : Addr := 0x08
def addrHi : Addr := 0x77
def nScan : Nat := 112
/-- T_SETTLE, in ms. -/
def tSettle : Nat := 20
/-- T_READ_TIMEOUT, in ms. -/
def tReadTimeout : Nat := 300
def wordReadLen : Nat := 2
def blockReadLen : Nat := 33
/-- L11ENC_EXP: the 5-bit field 0b11110, that is -2. -/
def l11encExp : BitVec 5 := 0b11110
def minReportLen : Nat := 64

/-! Free values: nothing in the model can see one. -/

/-- VID and PID: OPEN, no default (R5, D6, N4). -/
opaque vid : Word
opaque pid : Word

/-- LINK's answers when no script is given, one draw per call (R45, U10, log 3). -/
opaque freeEnum : Nat → EnumAnswer
opaque freeOpen : Nat → LinkStatus
opaque freeClose : Nat → LinkStatus
opaque freeWrite : Nat → LinkStatus
opaque freeRead : Nat → ReadAnswer
opaque freeReadable : Nat → Bool
opaque freeWritable : Nat → Bool

/-- Whether a tie goes to the upper neighbour in magnitude when L11ENC_TIE is left open (U2, log 7). -/
opaque freeTie : Nat → Bool

/-- The character ASCDEC gives for a byte from 0x80 to 0xFF: the same one for the same byte (U7, D24, R88, log 26). -/
opaque freeChar : Byte → Char

/-- The default STATUS_TABLE of 30_encoding.md R61: entry i describes bit i. -/
def defaultStatusTable : Vector String 16 :=
  #v["off-condition", "busy", "other memory/logic fault", "CML fault",
     "temperature fault/warning", "VIN undervoltage", "IOUT overcurrent", "VOUT overvoltage",
     "unknown fault", "other fault", "fan fault", "POWER_GOOD negated",
     "MFR-specific", "VIN/UV fault", "IOUT/OC fault", "VOUT fault"]

/-- The defaults of R5. VID and PID have none. -/
def defaults : Params where
  lOutExtra := 0
  lInExtra := 0
  vid := vid
  pid := pid
  fill := 0x00
  tie := .open_
  overflow := .refuse
  reconnect := .refuse
  statusTable := defaultStatusTable
  noFaultText := "no faults"

end Config

/-- L_OUT, at least 64 by construction (R5). -/
def Params.lOut (p : Params) : Nat := Config.minReportLen + p.lOutExtra

/-- L_IN, at least 64 by construction (R5). -/
def Params.lIn (p : Params) : Nat := Config.minReportLen + p.lInExtra

end Sys2Proof
end

