-- ==== Sys2Proof/Syntax.lean ====
section
/-! DEFINITION. The instructions: one constructor per row of spec/opcode_table.json, and the names the
operations of the block go by. -/

namespace Sys2Proof

/-- The formats of 30_encoding.md R50 that a row of the opcode table is written in. -/
inductive Fmt where
  | opsel
  | cmd
  | hidw
  | hidr
  | hidi
  | l11
  | vm
  | l16
  | sw
  | rev
  deriving DecidableEq, Repr

/-- The eight transport operations (R65, OPSEL 0x00 to 0x07): the values of the latch OP (R15). -/
inductive Op where
  | connect
  | disconnect
  | isconn
  | scan
  | sendbyte
  | readword
  | writeword
  | blockread
  deriving DecidableEq, Repr

/-- A transport operation with its operands, as latched from the operation port (R15, R65). -/
inductive Call where
  | connect
  | disconnect
  | isconn
  | scan
  | sendbyte (a : Addr) (c : Byte)
  | readword (a : Addr) (c : Byte)
  | writeword (a : Addr) (c : Byte) (v : Word)
  | blockread (a : Addr) (c : Byte)
  deriving DecidableEq, Repr

/-- How a fault-limit register is accessed: read back (R171) or written (R173). -/
inductive LimitAccess where
  | read
  | write (val : F64)
  deriving DecidableEq, Repr

/-- One constructor per row of spec/opcode_table.json, in the table's order. -/
inductive Instr where
  /- transport operations, OPSEL 0x00 to 0x07 (R65) -/
  | connect
  | disconnect
  | isconn
  | scan
  | sendbyte (a : Addr) (c : Byte)
  | readword (a : Addr) (c : Byte)
  | writeword (a : Addr) (c : Byte) (v : Word)
  | blockread (a : Addr) (c : Byte)
  /- codec operations, OPSEL 0x10 to 0x17 (R65) -/
  | l11dec (w : Word)
  | l11enc (val : F64)
  | l16dec (w vm : Word)
  | stsdec (w : Word)
  | ascdec (b : List Byte)
  | bcdrev (w : Word)
  | vmexp (vm : Word)
  | rawnum (w : Word)
  /- OPSEL 0x08 to 0x0F and 0x18 to 0x1F (R66a) -/
  | reservedLow (k : BitVec 3)
  | reservedHigh (k : BitVec 3)
  /- wire formats (R51 to R53) -/
  | hidWrite (a : Addr) (pay : List Byte)
  | hidRead (a : Addr) (n : Byte)
  | hidResp (r : List Byte)
  /- report shapes (R57) -/
  | scanProbe (a : Addr)
  | sendbyteReport (a : Addr) (c : Byte)
  | writewordReport (a : Addr) (c : Byte) (v : Word)
  | readwordReadphase (a : Addr)
  | blockreadReadphase (a : Addr)
  /- word formats (R58 to R61, R63, R83) -/
  | l11Word (w : Word)
  | l11encResult (y : BitVec 11)
  | voutModeWord (w : Word)
  | l16Word (w : Word)
  | statusWordWord (w : Word)
  | pmbusRevisionWord (w : Word)
  /- the command catalogue (R64) -/
  | operation (a : Addr)
  | clearFaults (a : Addr)
  | voutMode (a : Addr)
  | voutCommand
  | voutOvFaultLimit (a : Addr) (acc : LimitAccess)
  | ioutOcFaultLimit (a : Addr) (acc : LimitAccess)
  | otFaultLimit (a : Addr) (acc : LimitAccess)
  | statusWord (a : Addr)
  | readVin (a : Addr)
  | readVout (a : Addr)
  | readIout (a : Addr)
  | readTemperature1 (a : Addr)
  | pmbusRevision (a : Addr)
  | mfrId (a : Addr)
  | mfrModel (a : Addr)
  | mfrRevision (a : Addr)
  | mfrSerial (a : Addr)
  deriving DecidableEq, Repr

/-- The operation a call selects. -/
def Call.op : Call → Op
  | .connect => .connect
  | .disconnect => .disconnect
  | .isconn => .isconn
  | .scan => .scan
  | .sendbyte _ _ => .sendbyte
  | .readword _ _ => .readword
  | .writeword _ _ _ => .writeword
  | .blockread _ _ => .blockread

end Sys2Proof
end

