-- ==== Sys2Proof/Machine/Operands.lean ====
section
/-! DEFINITION. The operand forms: sign extension of a sub-word field (R80), the fields of the word formats (R58 to R63),
byte order (R33), the address byte (R54), the valid address range (R31) and the command catalogue's codes (R64). -/

namespace Sys2Proof.Machine

/-- `sext_N` (R8, R80): the two's-complement value of an N-bit pattern. -/
def sext {n : Nat} (v : BitVec n) : Int :=
  if v.msb then (v.toNat : Int) - 2 ^ n else v.toNat

/-- The source's own form for the 11-bit mantissa (R80): an explicit test of bit 10 and OR with 0xF800. -/
def orExtend11 (v : BitVec 11) : BitVec 16 :=
  if v.getLsbD 10 then v.setWidth 16 ||| 0xF800#16 else v.setWidth 16

/-- The source's own form for the 5-bit exponent (R80): an explicit test of bit 4 and OR with 0xE0. -/
def orExtend5 (v : BitVec 5) : BitVec 8 :=
  if v.getLsbD 4 then v.setWidth 8 ||| 0xE0#8 else v.setWidth 8

/-- Bits 10:0 of a Linear11 word (R58). -/
def l11MantissaField (w : Word) : BitVec 11 := w.extractLsb' 0 11

/-- Bits 15:11 of a Linear11 word (R58). -/
def l11ExponentField (w : Word) : BitVec 5 := w.extractLsb' 11 5

/-- Bits 4:0 of a VOUT_MODE word; bits 15:5 are ignored (R59, D17). -/
def vmExponentField (vm : Word) : BitVec 5 := vm.extractLsb' 0 5

/-- Bits 7:4 of a PMBUS_REVISION word (R63). -/
def revHigh (w : Word) : BitVec 4 := w.extractLsb' 4 4

/-- Bits 3:0 of a PMBUS_REVISION word (R63). -/
def revLow (w : Word) : BitVec 4 := w.extractLsb' 0 4

/-- The Linear11 word with exponent field `e` and mantissa field `y` (R58). -/
def l11Pack (e : BitVec 5) (y : BitVec 11) : Word := e ++ y

/-- `le16` (R8, R33): a word as its two bytes, low byte first. -/
def le16 (v : Word) : List Byte := [v.extractLsb' 0 8, v.extractLsb' 8 8]

/-- The word of two data bytes in wire order, `d[0] + 256 * d[1]` (R33). -/
def word16 (lo hi : Byte) : Word := hi ++ lo

/-- The address byte of a write report: the address shifted left by one, bit 0 clear (R54). -/
def addrByteW (a : Addr) : Byte := a.setWidth 8 <<< 1

/-- The address byte of a read report: bit 0 set (R54). -/
def addrByteR (a : Addr) : Byte := a.setWidth 8 <<< 1 ||| 1#8

/-- A valid SmbusAddress: 0x08 to 0x77 inclusive (R31). -/
def addrOk (a : Addr) : Bool := decide (Config.addrLo ≤ a) && decide (a ≤ Config.addrHi)

/-- The address operand of a call, where it has one, is valid (R31). -/
def callOk : Call → Bool
  | .connect => true
  | .disconnect => true
  | .isconn => true
  | .scan => true
  | .sendbyte a _ => addrOk a
  | .readword a _ => addrOk a
  | .writeword a _ _ => addrOk a
  | .blockread a _ => addrOk a

/-- The operations that need a handle (R140). -/
def needsHandle : Op → Bool
  | .connect => false
  | .disconnect => false
  | .isconn => false
  | .scan => true
  | .sendbyte => true
  | .readword => true
  | .writeword => true
  | .blockread => true

/-! The command codes of the catalogue (R64). -/

def cmdOperation : Byte := 0x01
def cmdClearFaults : Byte := 0x03
def cmdVoutMode : Byte := 0x20
def cmdVoutCommand : Byte := 0x21
def cmdVoutOvFaultLimit : Byte := 0x40
def cmdIoutOcFaultLimit : Byte := 0x46
def cmdOtFaultLimit : Byte := 0x4F
def cmdStatusWord : Byte := 0x79
def cmdReadVin : Byte := 0x88
def cmdReadVout : Byte := 0x8B
def cmdReadIout : Byte := 0x8C
def cmdReadTemperature1 : Byte := 0x8D
def cmdPmbusRevision : Byte := 0x98
def cmdMfrId : Byte := 0x99
def cmdMfrModel : Byte := 0x9A
def cmdMfrRevision : Byte := 0x9B
def cmdMfrSerial : Byte := 0x9E

/-- The value of OPERATION that is "turn ON" (R70). -/
def operationOn : Word := 0x0080

end Sys2Proof.Machine
end

