-- ==== Sys2Proof/WellFormed.lean ====
section
/-! DEFINITION. Which instructions are well formed: the operand ranges of the spec, and one spelling for each
report and each word where two rows of the opcode table overlap (log 18). -/

namespace Sys2Proof

/-- The payload lengths that have a row of their own (R57): SCAN.probe, SENDBYTE.report, WRITEWORD.report. -/
def shapedPayload (n : Nat) : Bool := n == 0 || n == 1 || n == 3

/-- The read lengths that have a row of their own (R57): READWORD.readphase, BLOCKREAD.readphase. -/
def shapedRead (n : Byte) : Bool := n == 2 || n == 33

/-- The payload lengths that the LEN byte of a write report can say (R51). One above 60 is well formed: it has an effect,
the local failure of R66 (d). -/
def payloadLength (n : Nat) : Bool := decide (n < 256)

/-- An instruction is well formed when each operand is in the range the spec gives it (R31, R51, R52, R102)
and the more specific of two overlapping rows is used (log 18). The operations and sequences are held to the address
range [0x08, 0x77] of R31; the report rows, of which R31 and R66 (e) say nothing, take any 7-bit address (log 36). -/
def Instr.wellFormed : Instr → Bool
  | .connect => true
  | .disconnect => true
  | .isconn => true
  | .scan => true
  | .sendbyte a _ => Machine.addrOk a
  | .readword a _ => Machine.addrOk a
  | .writeword a _ _ => Machine.addrOk a
  | .blockread a _ => Machine.addrOk a
  | .l11dec _ => true
  | .l11enc _ => true
  | .l16dec _ _ => true
  | .stsdec _ => true
  | .ascdec b => !b.isEmpty
  | .bcdrev _ => true
  | .vmexp _ => true
  | .rawnum _ => true
  | .reservedLow _ => true
  | .reservedHigh _ => true
  | .hidWrite _ pay => payloadLength pay.length && !shapedPayload pay.length
  | .hidRead _ n => !shapedRead n
  | .hidResp _ => true
  | .scanProbe _ => true
  | .sendbyteReport _ _ => true
  | .writewordReport _ _ _ => true
  | .readwordReadphase _ => true
  | .blockreadReadphase _ => true
  | .l11Word w => Machine.l11ExponentField w != Config.l11encExp
  | .l11encResult _ => true
  | .voutModeWord _ => true
  | .l16Word _ => true
  | .statusWordWord _ => true
  | .pmbusRevisionWord _ => true
  | .operation a => Machine.addrOk a
  | .clearFaults a => Machine.addrOk a
  | .voutMode a => Machine.addrOk a
  | .voutCommand => true
  | .voutOvFaultLimit a _ => Machine.addrOk a
  | .ioutOcFaultLimit a _ => Machine.addrOk a
  | .otFaultLimit a _ => Machine.addrOk a
  | .statusWord a => Machine.addrOk a
  | .readVin a => Machine.addrOk a
  | .readVout a => Machine.addrOk a
  | .readIout a => Machine.addrOk a
  | .readTemperature1 a => Machine.addrOk a
  | .pmbusRevision a => Machine.addrOk a
  | .mfrId a => Machine.addrOk a
  | .mfrModel a => Machine.addrOk a
  | .mfrRevision a => Machine.addrOk a
  | .mfrSerial a => Machine.addrOk a

end Sys2Proof
end

