-- ==== Sys2Proof/Decode.lean ====
section
/-! DEFINITION. The decoder, total on any bytes and rejecting by name, and the encoder after it.
The spec gives numbers to OPSEL (R65), to the command codes (R64), to the bytes of the reports (R51 to R53) and to the
bits of the words (R58 to R63). How an operand stands beside an OPSEL or a command code is the model's (log 1). -/

namespace Sys2Proof

/-- Why bytes are no instruction of their format. -/
inductive DecodeError where
  /-- too few bytes: an outbound report has the one length L_OUT (R67), and an OPSEL or a code is a byte -/
  | truncated
  /-- bits 7:5 of an OPSEL byte are not zero: OPSEL has five bits (R65, and D2: "unassigned values refused") -/
  | opsel
  /-- operand bytes that are not the operation's (R65, in the layout of log 1) -/
  | operands
  /-- a byte outside the catalogue of R64: the sequences refuse it (R181, U21) -/
  | code
  /-- not the REPORT_ID or the OPCODE of the report format (R51, R52, R66b) -/
  | header
  /-- bit 0 of the address byte is the other direction (R54) -/
  | direction
  deriving DecidableEq, Repr

/-- What the decoder answers. -/
inductive Decoded where
  | ok (i : Instr)
  | rejected (e : DecodeError)
  deriving DecidableEq, Repr

/-- Zero bytes after `bs` up to `n` bytes. -/
def padTo (n : Nat) (bs : List Byte) : List Byte := bs ++ List.replicate (n - bs.length) 0

namespace Decode

/-- An address operand byte beside an OPSEL or a command code: bits 6:0 are the address counted from ADDR_LO, modulo
128, so 0x00 to 0x6F are the 112 valid addresses in scan order and 0x70 to 0x7F the reserved ones (log 1). -/
def addrOperand (b : Byte) : Addr := b.setWidth 7 + Config.addrLo

/-- The address operand byte of an address. -/
def addrOperandByte (a : Addr) : Byte := (a - Config.addrLo).setWidth 8

/-- Use an address operand byte whose bit 7 is clear. -/
def withAddr (b : Byte) (f : Addr → Instr) : Decoded :=
  if b.msb then .rejected .operands else .ok (f (addrOperand b))

/-- No operands. -/
def operands0 (i : Instr) : List Byte → Decoded
  | [] => .ok i
  | _ => .rejected .operands

/-- ADDR alone. -/
def operandsAddr (f : Addr → Instr) : List Byte → Decoded
  | [a] => withAddr a f
  | _ => .rejected .operands

/-- ADDR, CMD. -/
def operandsAddrCmd (f : Addr → Byte → Instr) : List Byte → Decoded
  | [a, c] => withAddr a fun a => f a c
  | _ => .rejected .operands

/-- ADDR, CMD, WDATA low byte first. -/
def operandsAddrCmdWord (f : Addr → Byte → Word → Instr) : List Byte → Decoded
  | [a, c, lo, hi] => withAddr a fun a => f a c (Machine.word16 lo hi)
  | _ => .rejected .operands

/-- One word, low byte first. -/
def operandsWord (f : Word → Instr) : List Byte → Decoded
  | [lo, hi] => .ok (f (Machine.word16 lo hi))
  | _ => .rejected .operands

/-- Two words, each low byte first. -/
def operandsWords (f : Word → Word → Instr) : List Byte → Decoded
  | [lo, hi, lo', hi'] => .ok (f (Machine.word16 lo hi) (Machine.word16 lo' hi'))
  | _ => .rejected .operands

/-- The 64 bits of an f64, low byte first. -/
def f64OfBytes (b0 b1 b2 b3 b4 b5 b6 b7 : Byte) : F64 :=
  b7 ++ (b6 ++ (b5 ++ (b4 ++ (b3 ++ (b2 ++ (b1 ++ b0 : BitVec 16) : BitVec 24) : BitVec 32) : BitVec 40) : BitVec 48)
    : BitVec 56)

/-- The bytes of an f64, low byte first. -/
def f64Bytes (v : F64) : List Byte :=
  [v.extractLsb' 0 8, v.extractLsb' 8 8, v.extractLsb' 16 8, v.extractLsb' 24 8,
   v.extractLsb' 32 8, v.extractLsb' 40 8, v.extractLsb' 48 8, v.extractLsb' 56 8]

/-- One f64. -/
def operandsF64 (f : F64 → Instr) : List Byte → Decoded
  | [b0, b1, b2, b3, b4, b5, b6, b7] => .ok (f (f64OfBytes b0 b1 b2 b3 b4 b5 b6 b7))
  | _ => .rejected .operands

/-- ADDR, then 0 to read a limit, or 1 and an f64 to write one (log 21). -/
def operandsLimit (f : Addr → LimitAccess → Instr) : List Byte → Decoded
  | a :: d :: rest =>
    if d = 0 then
      match rest with
      | [] => withAddr a fun a => f a .read
      | _ => .rejected .operands
    else if d = 1 then
      match rest with
      | [b0, b1, b2, b3, b4, b5, b6, b7] => withAddr a fun a => f a (.write (f64OfBytes b0 b1 b2 b3 b4 b5 b6 b7))
      | _ => .rejected .operands
    else .rejected .operands
  | _ => .rejected .operands

/-- Format OPSEL (R65, R66a). -/
def opsel : List Byte → Decoded
  | [] => .rejected .truncated
  | o :: rest =>
    if o.extractLsb' 3 5 = 0b00001#5 then .ok (.reservedLow (o.setWidth 3))
    else if o.extractLsb' 3 5 = 0b00011#5 then .ok (.reservedHigh (o.setWidth 3))
    else if o = 0x00 then operands0 .connect rest
    else if o = 0x01 then operands0 .disconnect rest
    else if o = 0x02 then operands0 .isconn rest
    else if o = 0x03 then operands0 .scan rest
    else if o = 0x04 then operandsAddrCmd .sendbyte rest
    else if o = 0x05 then operandsAddrCmd .readword rest
    else if o = 0x06 then operandsAddrCmdWord .writeword rest
    else if o = 0x07 then operandsAddrCmd .blockread rest
    else if o = 0x10 then operandsWord .l11dec rest
    else if o = 0x11 then operandsF64 .l11enc rest
    else if o = 0x12 then operandsWords .l16dec rest
    else if o = 0x13 then operandsWord .stsdec rest
    else if o = 0x14 then .ok (.ascdec rest)
    else if o = 0x15 then operandsWord .bcdrev rest
    else if o = 0x16 then operandsWord .vmexp rest
    else if o = 0x17 then operandsWord .rawnum rest
    else .rejected .opsel

/-- Format CMD: a code of the catalogue (R64), with the operands of its sequence. -/
def cmd : List Byte → Decoded
  | [] => .rejected .truncated
  | c :: rest =>
    if c = Machine.cmdOperation then operandsAddr .operation rest
    else if c = Machine.cmdClearFaults then operandsAddr .clearFaults rest
    else if c = Machine.cmdVoutMode then operandsAddr .voutMode rest
    else if c = Machine.cmdVoutCommand then operands0 .voutCommand rest
    else if c = Machine.cmdVoutOvFaultLimit then operandsLimit .voutOvFaultLimit rest
    else if c = Machine.cmdIoutOcFaultLimit then operandsLimit .ioutOcFaultLimit rest
    else if c = Machine.cmdOtFaultLimit then operandsLimit .otFaultLimit rest
    else if c = Machine.cmdStatusWord then operandsAddr .statusWord rest
    else if c = Machine.cmdReadVin then operandsAddr .readVin rest
    else if c = Machine.cmdReadVout then operandsAddr .readVout rest
    else if c = Machine.cmdReadIout then operandsAddr .readIout rest
    else if c = Machine.cmdReadTemperature1 then operandsAddr .readTemperature1 rest
    else if c = Machine.cmdPmbusRevision then operandsAddr .pmbusRevision rest
    else if c = Machine.cmdMfrId then operandsAddr .mfrId rest
    else if c = Machine.cmdMfrModel then operandsAddr .mfrModel rest
    else if c = Machine.cmdMfrRevision then operandsAddr .mfrRevision rest
    else if c = Machine.cmdMfrSerial then operandsAddr .mfrSerial rest
    else .rejected .code

/-- The row of a write report with address `a` and report payload `pay`: the row of its own shape where R57 gives
that length one, else HID.WRITE. -/
def writeShape (a : Addr) : List Byte → Instr
  | [] => .scanProbe a
  | [c] => .sendbyteReport a c
  | [c, lo, hi] => .writewordReport a c (Machine.word16 lo hi)
  | pay => .hidWrite a pay

/-- The row of a read report. -/
def readShape (a : Addr) (n : Byte) : Instr :=
  if n = 2 then .readwordReadphase a
  else if n = 33 then .blockreadReadphase a
  else .hidRead a n

/-- Format HIDW (R51). Bytes after the payload are unused and not looked at. A LEN above 60 is decoded too, since the
instruction then has an effect, PayloadTooLarge (R66d, R194); such a payload fits no report, and of its bytes the ones
that are not there are taken as zeros, which nothing reads (log 17). -/
def hidw : List Byte → Decoded
  | id :: opc :: ab :: n :: rest =>
    if id ≠ Config.reportId || opc ≠ Config.opcWrite then .rejected .header
    else if ab.getLsbD 0 then .rejected .direction
    else if rest.length < n.toNat && decide (n.toNat ≤ Config.maxPayload) then .rejected .truncated
    else .ok (writeShape (ab.extractLsb' 1 7) ((padTo n.toNat rest).take n.toNat))
  | _ => .rejected .truncated

/-- Format HIDR (R52). Bytes after RLEN are unused and not looked at. An RLEN above 60 is decoded too (R66d, R194). -/
def hidr : List Byte → Decoded
  | id :: opc :: ab :: n :: _ =>
    if id ≠ Config.reportId || opc ≠ Config.opcRead then .rejected .header
    else if !ab.getLsbD 0 then .rejected .direction
    else .ok (readShape (ab.extractLsb' 1 7) n)
  | _ => .rejected .truncated

/-- A word of format L11: L11ENC.result where its exponent field is the encoder's, else L11.word (log 18). -/
def l11Shape (w : Word) : Instr :=
  if Machine.l11ExponentField w = Config.l11encExp then .l11encResult (Machine.l11MantissaField w) else .l11Word w

end Decode

/-- The instruction that `bytes` are in format `f`. Format HIDI is total: every byte sequence is an inbound report
(R53, R66c). -/
def decode (f : Fmt) (bytes : List Byte) : Decoded :=
  match f with
  | .opsel => Decode.opsel bytes
  | .cmd => Decode.cmd bytes
  | .hidw => Decode.hidw bytes
  | .hidr => Decode.hidr bytes
  | .hidi => .ok (.hidResp bytes)
  | .l11 => Decode.operandsWord Decode.l11Shape bytes
  | .vm => Decode.operandsWord .voutModeWord bytes
  | .l16 => Decode.operandsWord .l16Word bytes
  | .sw => Decode.operandsWord .statusWordWord bytes
  | .rev => Decode.operandsWord .pmbusRevisionWord bytes

namespace Encode

/-- Bytes 0 to 3+n of a write report (R51). -/
def writeHead (a : Addr) (pay : List Byte) : List Byte :=
  [Config.reportId, Config.opcWrite, Machine.addrByteW a, BitVec.ofNat 8 pay.length] ++ pay

/-- Bytes 0 to 3 of a read report (R52). -/
def readHead (a : Addr) (n : Byte) : List Byte :=
  [Config.reportId, Config.opcRead, Machine.addrByteR a, n]

/-- The operand bytes of a limit register's access (log 21). -/
def limit (a : Addr) : LimitAccess → List Byte
  | .read => [Decode.addrOperandByte a, 0]
  | .write v => Decode.addrOperandByte a :: 1 :: Decode.f64Bytes v

end Encode

/-- The format and the bytes of an instruction. -/
def encode : Instr → Fmt × List Byte
  | .connect => (.opsel, [0x00])
  | .disconnect => (.opsel, [0x01])
  | .isconn => (.opsel, [0x02])
  | .scan => (.opsel, [0x03])
  | .sendbyte a c => (.opsel, [0x04, Decode.addrOperandByte a, c])
  | .readword a c => (.opsel, [0x05, Decode.addrOperandByte a, c])
  | .writeword a c v => (.opsel, [0x06, Decode.addrOperandByte a, c] ++ Machine.le16 v)
  | .blockread a c => (.opsel, [0x07, Decode.addrOperandByte a, c])
  | .l11dec w => (.opsel, 0x10 :: Machine.le16 w)
  | .l11enc v => (.opsel, 0x11 :: Decode.f64Bytes v)
  | .l16dec w vm => (.opsel, 0x12 :: (Machine.le16 w ++ Machine.le16 vm))
  | .stsdec w => (.opsel, 0x13 :: Machine.le16 w)
  | .ascdec b => (.opsel, 0x14 :: b)
  | .bcdrev w => (.opsel, 0x15 :: Machine.le16 w)
  | .vmexp vm => (.opsel, 0x16 :: Machine.le16 vm)
  | .rawnum w => (.opsel, 0x17 :: Machine.le16 w)
  | .reservedLow k => (.opsel, [0b00001#5 ++ k])
  | .reservedHigh k => (.opsel, [0b00011#5 ++ k])
  | .hidWrite a pay => (.hidw, Encode.writeHead a pay)
  | .hidRead a n => (.hidr, Encode.readHead a n)
  | .hidResp r => (.hidi, r)
  | .scanProbe a => (.hidw, Encode.writeHead a [])
  | .sendbyteReport a c => (.hidw, Encode.writeHead a [c])
  | .writewordReport a c v => (.hidw, Encode.writeHead a (c :: Machine.le16 v))
  | .readwordReadphase a => (.hidr, Encode.readHead a 2)
  | .blockreadReadphase a => (.hidr, Encode.readHead a 33)
  | .l11Word w => (.l11, Machine.le16 w)
  | .l11encResult y => (.l11, Machine.le16 (Machine.l11Pack Config.l11encExp y))
  | .voutModeWord w => (.vm, Machine.le16 w)
  | .l16Word w => (.l16, Machine.le16 w)
  | .statusWordWord w => (.sw, Machine.le16 w)
  | .pmbusRevisionWord w => (.rev, Machine.le16 w)
  | .operation a => (.cmd, [Machine.cmdOperation, Decode.addrOperandByte a])
  | .clearFaults a => (.cmd, [Machine.cmdClearFaults, Decode.addrOperandByte a])
  | .voutMode a => (.cmd, [Machine.cmdVoutMode, Decode.addrOperandByte a])
  | .voutCommand => (.cmd, [Machine.cmdVoutCommand])
  | .voutOvFaultLimit a acc => (.cmd, Machine.cmdVoutOvFaultLimit :: Encode.limit a acc)
  | .ioutOcFaultLimit a acc => (.cmd, Machine.cmdIoutOcFaultLimit :: Encode.limit a acc)
  | .otFaultLimit a acc => (.cmd, Machine.cmdOtFaultLimit :: Encode.limit a acc)
  | .statusWord a => (.cmd, [Machine.cmdStatusWord, Decode.addrOperandByte a])
  | .readVin a => (.cmd, [Machine.cmdReadVin, Decode.addrOperandByte a])
  | .readVout a => (.cmd, [Machine.cmdReadVout, Decode.addrOperandByte a])
  | .readIout a => (.cmd, [Machine.cmdReadIout, Decode.addrOperandByte a])
  | .readTemperature1 a => (.cmd, [Machine.cmdReadTemperature1, Decode.addrOperandByte a])
  | .pmbusRevision a => (.cmd, [Machine.cmdPmbusRevision, Decode.addrOperandByte a])
  | .mfrId a => (.cmd, [Machine.cmdMfrId, Decode.addrOperandByte a])
  | .mfrModel a => (.cmd, [Machine.cmdMfrModel, Decode.addrOperandByte a])
  | .mfrRevision a => (.cmd, [Machine.cmdMfrRevision, Decode.addrOperandByte a])
  | .mfrSerial a => (.cmd, [Machine.cmdMfrSerial, Decode.addrOperandByte a])

/-- How many bytes an OPSEL byte has with its operands; ASCDEC's block is taken one byte long. -/
def opselLength (o : Nat) : Nat :=
  if o = 0x04 ∨ o = 0x05 ∨ o = 0x07 then 3
  else if o = 0x06 then 5
  else if o = 0x11 then 9
  else if o = 0x12 then 5
  else if o = 0x14 then 2
  else if o = 0x10 ∨ o = 0x13 ∨ o = 0x15 ∨ o = 0x16 ∨ o = 0x17 then 3
  else 1

/-- How many bytes a command code has with its operands. -/
def cmdLength (c : Nat) : Nat :=
  if c = 0x21 then 1
  else if c = 0x40 ∨ c = 0x46 ∨ c = 0x4F then 3
  else 2

/-- The bytes of a number of `k` bytes in wire order, the first the most significant (the opcode table's note). -/
def wireBytes : Nat → Nat → List Byte
  | 0, _ => []
  | k + 1, w => BitVec.ofNat 8 (w / 256 ^ k) :: wireBytes k w

/-- The format and the bytes that an opcode-table number of `nbits` bits stands for, operands of zeros included.
The table's formats overlap as numbers, so the format is chosen by the width and the leading byte (log 18). -/
def tableWord (nbits w : Nat) : Fmt × List Byte :=
  if nbits ≤ 8 then
    if w < 0x20 then (.opsel, padTo (opselLength w) (wireBytes 1 w))
    else (.cmd, padTo (cmdLength w) (wireBytes 1 w))
  else if nbits ≤ 16 then
    if w / 256 % 256 = 0x01 then (.hidi, wireBytes 2 w)
    else (.l11, Machine.le16 (BitVec.ofNat 16 w))
  else
    let k := (nbits + 7) / 8
    let bs := wireBytes k w
    if bs.getD 1 0 = Config.opcRead then (.hidr, bs)
    else (.hidw, padTo (4 + (bs.getD 3 0).toNat) bs)

/-- The instruction the decoder reads from an opcode-table number of `nbits` bits. -/
def decodeTableWord (nbits w : Nat) : Option Instr :=
  match decode (tableWord nbits w).1 (tableWord nbits w).2 with
  | .ok i => some i
  | .rejected _ => none

end Sys2Proof
end

