-- ==== Sys2Proof/Machine/State.lean ====
section
/-! DEFINITION. The state of the block as plain data (10_state.md R11 to R19, R23), the reasons a step can stop, and the state
after reset (R25). -/

namespace Sys2Proof.Machine

/-- A byte-addressed buffer (R30): (index, byte) pairs, indices strictly rising, no byte equal to what an unlisted
index reads as (0x00, log 13). -/
abbrev Memory := List Host.Cell

/-- LOCK (R13, R41). -/
inductive Lock where
  | free
  | held (h : Nat)
  deriving DecidableEq, Repr

/-- PHASE (R14). -/
inductive Phase where
  | idle
  | check
  | wSent
  | settle
  | rSent
  | scanNext
  | done
  deriving DecidableEq, Repr

/-- CAUSE (R16, R190). -/
inductive Cause where
  | none
  | notConnected
  | timeout
  | shortOrMalformedResponse
  | payloadTooLarge
  | linkError
  deriving DecidableEq, Repr

/-- The DeviceHandle (R12): the device it is open on (R141) and its read timeout in ms (R19c). -/
structure Handle where
  dev : Nat
  readTimeout : Nat
  deriving DecidableEq, Repr

/-- A call the block makes on LINK, with LINK's answer (R126). -/
inductive LinkCall where
  | enumerate (vid pid : Word) (ans : EnumAnswer)
  | openDev (dev : Nat) (ans : LinkStatus)
  | setReadTimeout (ms : Nat)
  | close (ans : LinkStatus)
  | write (buf : List Byte) (ans : LinkStatus)
  | read (ans : ReadAnswer)
  deriving DecidableEq, Repr

/-- LINK as the block sees it (R126): the answers still to come, the counter that free answers are drawn with (R45,
log 3), and the calls made so far, newest first. -/
structure Link where
  enums : List EnumAnswer
  opens : List LinkStatus
  closes : List LinkStatus
  writes : List LinkStatus
  reads : List ReadAnswer
  readables : List Bool
  writables : List Bool
  draws : Nat
  traffic : List LinkCall
  deriving DecidableEq, Repr

/-- What a HOST agent does with the result of a transport operation it has issued: nothing more, or the rest of a
sequence of 44_catalogue_and_composites.md (R171 to R176). -/
inductive Cont where
  /-- the operation's own result -/
  | plain
  /-- L11DEC of the word (R171) -/
  | l11
  /-- the VOUT_MODE word is read; READ_VOUT of address `a` follows (R172) -/
  | vout (a : Addr)
  /-- L16DEC of the word with this VOUT_MODE word (R172) -/
  | l16 (vm : Word)
  /-- VMEXP of the word (R221 B-3, R85) -/
  | mode
  /-- STSDEC and RAWNUM of the word (R174) -/
  | status
  /-- BCDREV of the word (R175) -/
  | rev
  /-- ASCDEC of the block (R176) -/
  | str
  deriving DecidableEq, Repr

/-- The pseudocode line of 43_transport_ops.md that the SEQUENCER is to take next (R10: each line is a step), with what
the lines before it have bound. PHASE alone does not say it (log 35). A line of an exchange is two steps, up to HidWrite
and from HidRead on, since PHASE is W_SENT or R_SENT in between (R14, R124, R125). -/
inductive Line where
  /-- no operation in progress -/
  | idle
  /-- R140: the operands are latched -/
  | latch (c : Call)
  /-- R140: `CAUSE <- None` -/
  | clearCause
  /-- R140: the connected test -/
  | connectedTest
  /-- R141: CONNECT while connected -/
  | whenConnected
  /-- R141: `devs <- HidEnumerate(VID, PID)` -/
  | enumerate
  /-- R141: whether `devs` is empty -/
  | anyDevice (devs : List Nat)
  /-- R141: `HidOpen(devs[0])` -/
  | openDev (dev : Nat)
  /-- R141: `HidSetReadTimeout(300 ms)` -/
  | setTimeout (dev : Nat)
  /-- R141: `CONNECTED <- 1; OK <- true` -/
  | setConnected (dev : Nat)
  /-- R142 -/
  | disconnect
  /-- R143 -/
  | isconn
  /-- R144, R146: XWRITE up to HidWrite -/
  | sendOk
  /-- R144, R146: XWRITE from HidRead on -/
  | ackOk
  /-- R145, R147: the write phase up to HidWrite -/
  | sendCmd
  /-- R145, R147: the write phase from HidRead on -/
  | ackCmd
  /-- R145, R147: `Wait(T_SETTLE)` -/
  | wait
  /-- R145, R147: XREAD up to HidWrite -/
  | sendRead
  /-- R145, R147: XREAD from HidRead on -/
  | recvRead
  /-- R145: whether `d` is none -/
  | noData (d : Option (List Byte))
  /-- R145: whether `d` is too short -/
  | shortData (d : List Byte)
  /-- R145: RAW from `d[0]` and `d[1]` -/
  | takeWord (lo hi : Byte)
  /-- R147: `BYTES <- d` -/
  | takeBytes (d : Option (List Byte))
  /-- R148: `FOUND <- []; SCAN_PTR <- 0x08` -/
  | scanInit
  /-- R148: the test of the loop -/
  | scanWhile
  /-- R148: a probe up to HidWrite -/
  | probe
  /-- R148: a probe from HidRead on -/
  | probeAck
  /-- R148: `SCAN_PTR <- SCAN_PTR + 1` -/
  | advance
  /-- R148: `CAUSE <- None` -/
  | scanEnd
  /-- R140: Release, and the result delivered -/
  | release
  deriving DecidableEq, Repr

/-- A result as a HOST agent receives it (R16, R65, R179). -/
inductive Result where
  /-- DISCONNECT: nothing -/
  | nothing
  /-- OK -/
  | flag (ok : Bool)
  /-- RAW -/
  | raw (w : Option Word)
  /-- BYTES -/
  | bytes (b : Option (List Byte))
  /-- FOUND -/
  | found (addrs : List Addr)
  /-- VALUE -/
  | value (v : F64)
  /-- WORD -/
  | word (w : Word)
  /-- N of VMEXP or of a VOUT_MODE word -/
  | exponent (n : Int)
  /-- LIST, NOFAULT, TEXTS -/
  | status (list : List (Fin 16)) (noFault : Bool) (texts : List String)
  /-- TEXT of ASCDEC -/
  | text (cs : List Char)
  /-- HIGH, LOW, TEXT of BCDREV -/
  | revision (high low : BitVec 4) (text : List Char)
  /-- a sequence that ended without a result (R89, R170) -/
  | noResult
  /-- the ReadResult pair (R179) -/
  | reading (raw : Word) (v : F64)
  /-- the VOUT_MODE word and its exponent -/
  | modeReading (raw : Word) (n : Int)
  /-- RD_STATUS (R174) -/
  | statusReading (raw : Word) (v : F64) (list : List (Fin 16)) (noFault : Bool) (texts : List String)
  /-- RD_REV (R175) -/
  | revReading (raw : Word) (text : List Char)
  /-- OUT as FRAMEW or FRAMER leaves it; none when the length is over MAX_PAYLOAD -/
  | frame (out : Option (List Byte))
  /-- PARSEACK and PARSERD of an inbound report -/
  | parsed (ack : Bool) (data : Option (List Byte))
  /-- exponent and mantissa of a Linear11 word -/
  | l11Fields (n y : Int)
  /-- mantissa of a Linear16 word -/
  | mantissa (y : Nat)
  /-- the nibbles of a PMBUS_REVISION word -/
  | nibbles (high low : BitVec 4)
  /-- a constant of the catalogue -/
  | code (c : Byte)
  deriving DecidableEq, Repr

/-- A result with the HOST agent it went to (R16, R200). -/
structure Delivery where
  agent : Nat
  result : Result
  deriving DecidableEq, Repr

/-- What a HOST agent has asked for: an instruction as it stands at the operation port, or the next transport
operation of a sequence it has begun (R170). -/
inductive Work where
  | request (f : Fmt) (bytes : List Byte)
  | call (c : Call) (k : Cont)
  deriving DecidableEq, Repr

/-- A HOST agent's request, waiting at the operation port. -/
structure Pending where
  agent : Nat
  work : Work
  deriving DecidableEq, Repr

/-- Who takes the next step (R10, R40, U13): the SEQUENCER, or a HOST agent with its oldest request. -/
inductive Turn where
  | sequencer
  | host (h : Nat)
  deriving DecidableEq, Repr

/-- The state of the block. -/
structure State where
  /-- the parameters (R5, R19b) -/
  params : Params
  /-- the DeviceHandle; CONNECTED = 1 iff there is one (R12) -/
  handle : Option Handle
  /-- LOCK (R13) -/
  lock : Lock
  /-- PHASE (R14) -/
  phase : Phase
  /-- the pseudocode line the SEQUENCER takes next (model's own, log 35) -/
  line : Line
  /-- OP (R15) -/
  op : Op
  /-- ADDR (R15) -/
  addr : Addr
  /-- CMD (R15) -/
  cmd : Byte
  /-- WDATA (R15) -/
  wdata : Word
  /-- PAY (R15) -/
  pay : List Byte
  /-- RLEN (R15) -/
  rlen : Byte
  /-- OK (R16) -/
  ok : Bool
  /-- RAW (R16) -/
  raw : Option Word
  /-- BYTES (R16) -/
  bytes : Option (List Byte)
  /-- FOUND (R16, R18) -/
  found : List Addr
  /-- CAUSE (R16, R190) -/
  cause : Cause
  /-- OUT (R17) -/
  out : Memory
  /-- IN: its bytes (R17) -/
  inb : Memory
  /-- IN: its length |IN| (R17) -/
  inLen : Nat
  /-- SCAN_PTR (R18) -/
  scanPtr : Byte
  /-- the settle timer: not running, or running for that many ms (R23b) -/
  settleTimer : Option Nat
  /-- the read deadline: not running, or running for that many ms (R23c) -/
  readDeadline : Option Nat
  /-- LINK's inputs and traffic (R126) -/
  link : Link
  /-- the operation port (model's own: what HOST agents wait for, oldest first) -/
  port : List Pending
  /-- the HOST agent whose request is being issued (model's own) -/
  issuer : Nat
  /-- the interleaving still to be played (model's own, log 2) -/
  turns : List Turn
  /-- what the running operation's HOST agent does with its result (model's own) -/
  cont : Cont
  /-- results delivered, newest first (model's own) -/
  delivered : List Delivery
  /-- the counter the codec's free values are drawn with (model's own, log 7) -/
  draws : Nat
  deriving DecidableEq, Repr

/-- Reasons the machine stops with a fault. -/
inductive Fault where
  /-- The line to be taken is not one of the operation in OP, or not one PHASE stands at. Raised by `seqStep` alone, and
  only in a state no run from reset reaches (log 32). Safe. -/
  | noSuchLine (l : Line) (o : Op)
  deriving DecidableEq, Repr

/-- Reasons the machine refuses: what the spec itself calls refused, or bytes that are no encoding. -/
inductive Refusal where
  /-- An instruction with no meaning yet: raised by `exec` alone. Safe. -/
  | notModelled (mnemonic : String)
  /-- Bytes that are no encoding of any row of their format, for the reason `e` gives with its rule: raised by `step`.
  Safe. -/
  | undecodable (e : DecodeError)
  /-- OPSEL 0x08 to 0x0F or 0x18 to 0x1F (R66a, U5): raised by the two reserved rows. Safe. -/
  | reservedOpsel (o : Byte)
  /-- An address operand outside [0x08, 0x77] (R31, U4): raised by the transport operations and the sequences
  before Acquire. Safe. -/
  | addressOutOfRange (a : Addr)
  /-- CONNECT while CONNECTED = 1 under CONNECT_WHEN_CONNECTED = refuse (R141, U6): raised by CONNECT. Safe. -/
  | alreadyConnected
  /-- L11ENC of NaN or an infinity (R83, U3): raised by L11ENC. Safe. -/
  | notFinite
  /-- L11ENC with the rounded mantissa outside [-1024, 1023] under L11ENC_OVERFLOW = refuse (R83, U1): raised by
  L11ENC. Safe. -/
  | mantissaOutOfRange
  /-- ASCDEC of the empty sequence (R102, U8): raised by ASCDEC. Safe. -/
  | emptyBlock
  deriving DecidableEq, Repr

/-- What a step or an instruction answers. -/
abbrev Out := Host.Outcome State Fault Refusal

/-- CONNECTED (R12). -/
def State.connected (s : State) : Bool := s.handle.isSome

/-- LINK with no script: every answer is a free value (log 3). -/
def Link.unscripted : Link where
  enums := []
  opens := []
  closes := []
  writes := []
  reads := []
  readables := []
  writables := []
  draws := 0
  traffic := []

/-- The state right after reset (R25, R220). What R25 leaves unspecified has the value log 11, 12 or 13 names. -/
def State.reset : State where
  params := Config.defaults
  handle := none
  lock := .free
  phase := .idle
  line := .idle
  op := .connect
  addr := 0
  cmd := 0
  wdata := 0
  pay := []
  rlen := 0
  ok := false
  raw := none
  bytes := none
  found := []
  cause := .none
  out := []
  inb := []
  inLen := 0
  scanPtr := 0
  settleTimer := none
  readDeadline := none
  link := .unscripted
  port := []
  issuer := 0
  turns := []
  cont := .plain
  delivered := []
  draws := 0

end Sys2Proof.Machine
end

