-- ==== Sys2Proof/Machine/Flags.lean ====
section
/-! DEFINITION. The condition outputs (10_state.md R21). The block has no condition codes, carry, overflow or sticky
flags; its only conditions are the per-operation success value, NOFAULT and CAUSE. -/

namespace Sys2Proof.Machine

/-- The code of a cause (R190). -/
def Cause.code : Cause → Nat
  | .none => 0
  | .notConnected => 1
  | .timeout => 2
  | .shortOrMalformedResponse => 3
  | .payloadTooLarge => 4
  | .linkError => 5

/-- NOFAULT (R100): true iff the word is 0x0000. -/
def noFaultFlag (w : Word) : Bool := w == 0x0000#16

/-- The negative result of the operation in progress (R140): `false`, `none` or the empty sequence. -/
def setNegative (s : State) : State :=
  match s.op with
  | .connect => { s with ok := false }
  | .disconnect => s
  | .isconn => { s with ok := false }
  | .scan => { s with found := [] }
  | .sendbyte => { s with ok := false }
  | .readword => { s with raw := none }
  | .writeword => { s with ok := false }
  | .blockread => { s with bytes := none }

/-- The result of the operation just finished, read from its latch (R16, R65). -/
def latchedResult (s : State) : Result :=
  match s.op with
  | .connect => .flag s.ok
  | .disconnect => .nothing
  | .isconn => .flag s.ok
  | .scan => .found s.found
  | .sendbyte => .flag s.ok
  | .readword => .raw s.raw
  | .writeword => .flag s.ok
  | .blockread => .bytes s.bytes

end Sys2Proof.Machine
end

