-- ==== Sys2Proof/Machine/Ops.lean ====
section
/-! DEFINITION. The shared operations over the buffers, LINK and the latches: one place each for reading and writing a byte of
a buffer, calling LINK (42_framer.md R126), taking the lock (R41, R140), ending an operation with a failure (R197),
releasing the lock (R41, R198) and delivering a result (R16). -/

namespace Sys2Proof.Machine

/-! ## Buffers -/

/-- The byte at an index; an unlisted index reads as 0x00 (log 13). -/
def Memory.readByte : Memory → Nat → Byte
  | [], _ => 0
  | (j, b) :: rest, i => if j = i then b else Memory.readByte rest i

/-- Write one byte, keeping the canonical form. -/
def Memory.writeByte : Memory → Nat → Byte → Memory
  | [], i, b => if b = 0 then [] else [(i, b)]
  | (j, c) :: rest, i, b =>
    if i < j then (if b = 0 then (j, c) :: rest else (i, b) :: (j, c) :: rest)
    else if i = j then (if b = 0 then rest else (i, b) :: rest)
    else (j, c) :: Memory.writeByte rest i b

/-- Write bytes at rising indices from `base`. -/
def Memory.storeBytes : Memory → Nat → List Byte → Memory
  | m, _, [] => m
  | m, base, b :: bs => Memory.storeBytes (m.writeByte base b) (base + 1) bs

/-- The `n` bytes from `base` on, lowest index first. -/
def Memory.loadBytes (m : Memory) (base n : Nat) : List Byte :=
  (List.range n).map fun k => m.readByte (base + k)

/-- Whether the canonical form holds from index `lo` on: indices rising from `lo`, no byte 0x00. -/
def Memory.wfFrom : Nat → Memory → Bool
  | _, [] => true
  | lo, (i, b) :: rest => decide (lo ≤ i) && b != 0 && Memory.wfFrom (i + 1) rest

/-- The canonical form: indices strictly rising, no byte equal to what an unlisted index reads as. -/
def Memory.wf (m : Memory) : Bool := Memory.wfFrom 0 m

/-- OUT as the L_OUT bytes handed to LINK, index 0 first (R17, R33). -/
def State.outBytes (s : State) : List Byte := s.out.loadBytes 0 s.params.lOut

/-- IN as the bytes received, index 0 first (R17). -/
def State.inBytes (s : State) : List Byte := s.inb.loadBytes 0 s.inLen

/-- `OUT <- bytes`, every index rewritten (R127). -/
def setOut (bs : List Byte) (s : State) : State := { s with out := Memory.storeBytes [] 0 bs }

/-- `IN <- r`, wholly replaced (R127). -/
def setIn (r : List Byte) (s : State) : State := { s with inb := Memory.storeBytes [] 0 r, inLen := r.length }

/-! ## LINK (R126). Each call takes one answer and is recorded with it. -/

/-- The next answer of `HidEnumerate`. -/
def Link.nextEnum (l : Link) : EnumAnswer := l.enums.headD (Config.freeEnum l.draws)
/-- The next answer of `HidOpen`. -/
def Link.nextOpen (l : Link) : LinkStatus := l.opens.headD (Config.freeOpen l.draws)
/-- The next answer of `HidClose`. -/
def Link.nextClose (l : Link) : LinkStatus := l.closes.headD (Config.freeClose l.draws)
/-- The next answer of `HidWrite`. -/
def Link.nextWrite (l : Link) : LinkStatus := l.writes.headD (Config.freeWrite l.draws)
/-- The next value of LinkReadable. -/
def Link.nextReadable (l : Link) : Bool := l.readables.headD (Config.freeReadable l.draws)
/-- The next value of LinkWritable. -/
def Link.nextWritable (l : Link) : Bool := l.writables.headD (Config.freeWritable l.draws)

/-- What the block takes of an answer of `HidRead`: a report has at most L_IN bytes (R126, log 5). -/
def clipReport (cap : Nat) : ReadAnswer → ReadAnswer
  | .report r => .report (r.take cap)
  | .timeout => .timeout
  | .error => .error

/-- The next answer of `HidRead`, for a stream whose maximum report length is `cap`. -/
def Link.nextRead (cap : Nat) (l : Link) : ReadAnswer := clipReport cap (l.reads.headD (Config.freeRead l.draws))

/-- `HidEnumerate(VID, PID)`. -/
def Link.enumerate (vid pid : Word) (l : Link) : Link :=
  { l with enums := l.enums.tail, draws := l.draws + 1, traffic := .enumerate vid pid l.nextEnum :: l.traffic }

/-- `HidOpen(dev)`. -/
def Link.openDev (dev : Nat) (l : Link) : Link :=
  { l with opens := l.opens.tail, draws := l.draws + 1, traffic := .openDev dev l.nextOpen :: l.traffic }

/-- `HidSetReadTimeout(t)`: it has no answer (R126). -/
def Link.setReadTimeout (ms : Nat) (l : Link) : Link :=
  { l with traffic := .setReadTimeout ms :: l.traffic }

/-- `HidClose()`. -/
def Link.close (l : Link) : Link :=
  { l with closes := l.closes.tail, draws := l.draws + 1, traffic := .close l.nextClose :: l.traffic }

/-- `HidWrite(buf)`. -/
def Link.hidWrite (buf : List Byte) (l : Link) : Link :=
  { l with writes := l.writes.tail, draws := l.draws + 1, traffic := .write buf l.nextWrite :: l.traffic }

/-- `HidRead()`. -/
def Link.hidRead (cap : Nat) (l : Link) : Link :=
  { l with reads := l.reads.tail, draws := l.draws + 1, traffic := .read (l.nextRead cap) :: l.traffic }

/-- The two inputs LinkReadable and LinkWritable are looked at once (R143). -/
def Link.sampleReady (l : Link) : Link :=
  { l with readables := l.readables.tail, writables := l.writables.tail, draws := l.draws + 1 }

/-! ## Beginning and ending an operation -/

/-- The latches an operation's operands are written to at its start (R15, R140). A latch the operation has no operand
for keeps its value (log 15). -/
def latchOperands (c : Call) (s : State) : State :=
  match c with
  | .connect => { s with op := .connect }
  | .disconnect => { s with op := .disconnect }
  | .isconn => { s with op := .isconn }
  | .scan => { s with op := .scan }
  | .sendbyte a c => { s with op := .sendbyte, addr := a, cmd := c }
  | .readword a c => { s with op := .readword, addr := a, cmd := c }
  | .writeword a c v => { s with op := .writeword, addr := a, cmd := c, wdata := v }
  | .blockread a c => { s with op := .blockread, addr := a, cmd := c }

/-- Acquire for the issuing agent and PHASE <- CHECK, in one step (R41, R140; R27 I-2): the operands are latched by the
next. -/
def takeLock (c : Call) (k : Cont) (s : State) : State :=
  { s with lock := .held s.issuer, phase := .check, line := .latch c, cont := k }

/-- The prologue up to the connected test (R140): Acquire, PHASE <- CHECK, the operands latched, CAUSE <- None. -/
def acquire (c : Call) (k : Cont) (s : State) : State :=
  { latchOperands c (takeLock c k s) with cause := .none, line := .connectedTest }

/-- `PHASE <- DONE` (R140): the operation's results are latched, the lock is about to be released. -/
def finish (s : State) : State := { s with phase := .done, line := .release }

/-- An operation's end with its negative result, CAUSE as it stands (R140, R197). -/
def failed (s : State) : State := finish (setNegative s)

/-- `raise <Cause>` (R8, R197): the operation stops with its negative result, CAUSE is set, PHASE <- DONE. Nothing is
saved and nothing else changes; the lock is released by `release`. -/
def raise (c : Cause) (s : State) : State := failed { s with cause := c }

/-- `Release()` (R41, R198): LOCK <- free, PHASE <- IDLE. No timer survives the operation (R201). DESIGN CHOICE: the
operand and result latches, SCAN_PTR, OUT and IN keep their last contents between operations, where the spec leaves them
unspecified and unread (R15 to R18, R25, U11; log 38). -/
def release (s : State) : State :=
  { s with lock := .free, phase := .idle, line := .idle, settleTimer := none, readDeadline := none }

/-- A result handed to HOST agent `h` (R16, R200). The counter of the codec's free values moves on (log 7). -/
def deliver (h : Nat) (r : Result) (s : State) : State :=
  { s with delivered := ⟨h, r⟩ :: s.delivered, draws := s.draws + 1 }

/-- A codec operation or a unit's answer: one step that writes nothing but its result (R10, R20). -/
def answer (r : Result) (s : State) : Out := .next (deliver s.issuer r s)

end Sys2Proof.Machine
end

