-- ==== Sys2Proof/Machine/Framer.lean ====
section
/-! DEFINITION. The FRAMER (42_framer.md): FRAMEW R120, FRAMER R121, PARSEACK R122, PARSERD R123, the exchange primitives XWRITE
R124 and XREAD R125 in two halves each (up to HidWrite, from HidRead on), and the meanings of the report rows of the
opcode table. -/

namespace Sys2Proof.Machine

/-! ## Building and parsing reports -/

/-- Bytes of FILL up to L_OUT (R56). -/
def fillTo (p : Params) (bs : List Byte) : List Byte := bs ++ List.replicate (p.lOut - bs.length) p.fill

/-- FRAMEW (R120): the L_OUT bytes of the write report for address `a` and report payload `pay`. -/
def frameW (p : Params) (a : Addr) (pay : List Byte) : List Byte :=
  fillTo p ([Config.reportId, Config.opcWrite, addrByteW a, BitVec.ofNat 8 pay.length] ++ pay)

/-- FRAMER (R121): the L_OUT bytes of the read report for address `a` and `n` bytes. -/
def frameR (p : Params) (a : Addr) (n : Byte) : List Byte :=
  fillTo p [Config.reportId, Config.opcRead, addrByteR a, n]

/-- PARSEACK (R122). -/
def parseAck (r : List Byte) : Bool := decide (1 ≤ r.length) && r.getD 0 0 == Config.ackOk

/-- PARSERD (R123): DLEN clamped to the bytes actually available. -/
def parseRd (r : List Byte) : Option (List Byte) :=
  if 2 < r.length ∧ r.getD 0 0 = Config.ackOk then
    some ((r.drop 2).take (min (r.getD 1 0).toNat (r.length - 2)))
  else none

/-! ## Exchanges -/

/-- XWRITE up to HidWrite (R124): true when the report has been handed to LINK and its response is awaited. -/
def sendWrite (a : Addr) (pay : List Byte) (s : State) : Bool × State :=
  if Config.maxPayload < pay.length then (false, { s with cause := .payloadTooLarge })
  else
    let s := setOut (frameW s.params a pay) { s with pay := pay }
    let s' := { s with link := s.link.hidWrite s.outBytes }
    match s.link.nextWrite with
    | .error => (false, { s' with cause := .linkError })
    | .ok => (true, { s' with phase := .wSent, readDeadline := s'.handle.map Handle.readTimeout })

/-- XREAD up to HidWrite (R125). -/
def sendRead (a : Addr) (n : Nat) (s : State) : Bool × State :=
  if Config.maxPayload < n then (false, { s with cause := .payloadTooLarge })
  else
    let s := setOut (frameR s.params a (BitVec.ofNat 8 n)) { s with rlen := BitVec.ofNat 8 n }
    let s' := { s with link := s.link.hidWrite s.outBytes }
    match s.link.nextWrite with
    | .error => (false, { s' with cause := .linkError })
    | .ok => (true, { s' with phase := .rSent, readDeadline := s'.handle.map Handle.readTimeout })

/-- `HidRead()` and IN (R124, R125): true when a report has come. -/
def receive (s : State) : Bool × State :=
  let s' := { s with link := s.link.hidRead s.params.lIn, readDeadline := none }
  match s.link.nextRead s.params.lIn with
  | .timeout => (false, { s' with cause := .timeout })
  | .error => (false, { s' with cause := .linkError })
  | .report r => (true, setIn r s')

/-- XWRITE from HidRead on (R124). -/
def recvAck (s : State) : Bool × State :=
  match receive s with
  | (false, s) => (false, s)
  | (true, s) =>
    if parseAck s.inBytes then (true, s) else (false, { s with cause := .shortOrMalformedResponse })

/-- XREAD from HidRead on (R125). -/
def recvData (s : State) : Option (List Byte) × State :=
  match receive s with
  | (false, s) => (none, s)
  | (true, s) =>
    match parseRd s.inBytes with
    | some d => (some d, s)
    | none => (none, { s with cause := .shortOrMalformedResponse })

/-- XWRITE, the internal write primitive (R124). -/
def xwrite (a : Addr) (pay : List Byte) (s : State) : Bool × State :=
  match sendWrite a pay s with
  | (false, s) => (false, s)
  | (true, s) => recvAck s

/-- XREAD, the internal read primitive (R125). -/
def xread (a : Addr) (n : Nat) (s : State) : Option (List Byte) × State :=
  match sendRead a n s with
  | (false, s) => (none, s)
  | (true, s) => recvData s

/-! ## The report rows: the FRAMER on its own operands, with no LINK (R128, log 17) -/

/-- FRAMEW into OUT, and OUT alone (R120), or the local failure of a payload over MAX_PAYLOAD (R66d, R124, R194). The
FRAMER belongs to the running operation, so with the lock held nothing happens (log 17). DESIGN CHOICE: the report is
built for any 7-bit address; the spec refuses an address outside [0x08, 0x77] as the operand of an operation (R31, R66e,
U4) and says nothing of it on a report row (log 36). -/
def buildWrite (a : Addr) (pay : List Byte) (s : State) : Out :=
  if s.lock ≠ .free then .next s
  else if Config.maxPayload < pay.length then answer (.frame none) { s with cause := .payloadTooLarge }
  else
    let s := setOut (frameW s.params a pay) s
    answer (.frame (some s.outBytes)) s

/-- FRAMER into OUT, and OUT alone (R121), or the local failure of a request over MAX_PAYLOAD (R66d, R125, R194); log 17.
DESIGN CHOICE: for any 7-bit address, as `buildWrite` (log 36). -/
def buildRead (a : Addr) (n : Byte) (s : State) : Out :=
  if s.lock ≠ .free then .next s
  else if Config.maxPayload < n.toNat then answer (.frame none) { s with cause := .payloadTooLarge }
  else
    let s := setOut (frameR s.params a n) s
    answer (.frame (some s.outBytes)) s

/-- HID.WRITE (R51, R120). -/
def execHidWrite (a : Addr) (pay : List Byte) (s : State) : Out := buildWrite a pay s

/-- HID.READ (R52, R121). -/
def execHidRead (a : Addr) (n : Byte) (s : State) : Out := buildRead a n s

/-- HID.RESP (R53, R122, R123): the report into IN, and both parses of it. -/
def execHidResp (r : List Byte) (s : State) : Out :=
  if s.lock ≠ .free then .next s
  else
    let s := setIn (r.take s.params.lIn) s
    answer (.parsed (parseAck s.inBytes) (parseRd s.inBytes)) s

/-- SCAN.probe (R57, R148): a write report with no payload. -/
def execScanProbe (a : Addr) (s : State) : Out := buildWrite a [] s

/-- SENDBYTE.report (R57, R144), also the write phase of READWORD and BLOCKREAD. -/
def execSendbyteReport (a : Addr) (c : Byte) (s : State) : Out := buildWrite a [c] s

/-- WRITEWORD.report (R57, R146). -/
def execWritewordReport (a : Addr) (c : Byte) (v : Word) (s : State) : Out := buildWrite a (c :: le16 v) s

/-- READWORD.readphase (R57, R145). -/
def execReadwordReadphase (a : Addr) (s : State) : Out := buildRead a (BitVec.ofNat 8 Config.wordReadLen) s

/-- BLOCKREAD.readphase (R57, R147). -/
def execBlockreadReadphase (a : Addr) (s : State) : Out := buildRead a (BitVec.ofNat 8 Config.blockReadLen) s

end Sys2Proof.Machine
end

