-- ==== Sys2Proof/Machine/Numeric.lean ====
section
/-! DEFINITION. The numeric CODEC (40_codec_numeric.md): L11DEC R81, L11ENC R83, VMEXP R85, L16DEC R86, RAWNUM R87, the binary64
patterns of R82, and the meanings of these operations and of the word rows L11.word, L11ENC.result, VOUT_MODE.word and
L16.word. -/

namespace Sys2Proof.Machine

/-! ## binary64 (R82; the field positions and the bias are the spec's G1, log 25) -/

/-- The f64 that equals `A × 2^N`, for |A| <= 65535 and -16 <= N <= 15 (R82); all bits clear for A = 0 (D21). -/
def packF64 (A N : Int) : F64 :=
  if A = 0 then 0
  else
    let a := A.natAbs
    let k := a.log2
    BitVec.ofNat 64
      ((if A < 0 then 2 ^ 63 else 0) + (1023 + (k : Int) + N).toNat * 2 ^ 52 + (a - 2 ^ k) * 2 ^ (52 - k))

/-- Bits 62:52. -/
def f64Exponent (v : F64) : Nat := (v.extractLsb' 52 11).toNat

/-- Bits 51:0. -/
def f64Fraction (v : F64) : Nat := (v.extractLsb' 0 52).toNat

/-- Neither NaN nor an infinity. -/
def f64Finite (v : F64) : Bool := f64Exponent v != 2047

/-- The integer significand of a finite f64, the hidden 1 of a normal number included. -/
def f64Significand (v : F64) : Nat := if f64Exponent v = 0 then f64Fraction v else 2 ^ 52 + f64Fraction v

/-- The power of two the significand is scaled by. -/
def f64Scale (v : F64) : Int := if f64Exponent v = 0 then -1074 else (f64Exponent v : Int) - 1075

/-- The real number a finite f64 denotes. -/
def f64Value (v : F64) : ℚ := (if v.msb then -1 else 1) * (f64Significand v : ℚ) * (2 : ℚ) ^ f64Scale v

/-! ## Decoders -/

/-- The mantissa Y of a Linear11 word (R58, R81). -/
def l11Mantissa (w : Word) : Int := sext (l11MantissaField w)

/-- The exponent N of a Linear11 word (R58, R81). -/
def l11Exponent (w : Word) : Int := sext (l11ExponentField w)

/-- L11DEC (R81): `Y × 2^N`. -/
def l11dec (w : Word) : F64 := packF64 (l11Mantissa w) (l11Exponent w)

/-- VMEXP (R85): the low 5 bits, sign-extended. -/
def vmexp (vm : Word) : Int := sext (vmExponentField vm)

/-- L16DEC (R86): the unsigned word times two to the exponent. -/
def l16dec (w vm : Word) : F64 := packF64 w.toNat (vmexp vm)

/-- RAWNUM (R87): the unsigned word. -/
def rawnum (w : Word) : F64 := packF64 w.toNat 0

/-! ## Encoder -/

/-- Which neighbour a tie between `q` and `q + 1` goes to (R83, D18): the even one, the one farther from zero, or, with
L11ENC_TIE left open, a free one (log 7). -/
def tieUp (t : Tie) (draw q : Nat) : Bool :=
  match t with
  | .even => q % 2 == 1
  | .away => true
  | .open_ => Config.freeTie draw

/-- |round(VAL × 4)| (R83): the exact product, then the nearest integer. A significand is below 2^53, so with a power
below -54 the product is below 1/2 and its nearest integer is 0. -/
def quarterMagnitude (t : Tie) (draw : Nat) (v : F64) : Nat :=
  let e := f64Scale v + 2
  if 0 ≤ e then f64Significand v * 2 ^ e.toNat
  else if e < -54 then 0
  else
    let d := 2 ^ (-e).toNat
    let q := f64Significand v / d
    let r := f64Significand v % d
    if 2 * r < d then q
    else if d < 2 * r then q + 1
    else if tieUp t draw q then q + 1 else q

/-- `m = round(VAL × 4)` (R83). -/
def quarterRound (t : Tie) (draw : Nat) (v : F64) : Int :=
  if v.msb then -(quarterMagnitude t draw v : Int) else quarterMagnitude t draw v

/-- `0xF000 | (m mod 2^11)` (R83). -/
def quarterWord (m : Int) : Word := 0xF000#16 ||| BitVec.ofNat 16 (m % 2048).toNat

/-- What L11ENC answers. -/
inductive Encoded where
  | word (w : Word)
  | notFinite
  | outOfRange
  deriving DecidableEq, Repr

/-- L11ENC (R83). -/
def l11enc (p : Params) (draw : Nat) (v : F64) : Encoded :=
  if !f64Finite v then .notFinite
  else
    let m := quarterRound p.tie draw v
    if -1024 ≤ m ∧ m ≤ 1023 then .word (quarterWord m)
    else
      match p.overflow with
      | .refuse => .outOfRange
      | .wrap => .word (quarterWord m)
      | .saturate => .word (if 1023 < m then 0xF3FF else 0xF400)

/-! ## Meanings -/

/-- L11DEC (R81). -/
def execL11dec (w : Word) (s : State) : Out := answer (.value (l11dec w)) s

/-- L11ENC (R83). -/
def execL11enc (v : F64) (s : State) : Out :=
  match l11enc s.params s.draws v with
  | .word w => answer (.word w) s
  | .notFinite => .refused .notFinite
  | .outOfRange => .refused .mantissaOutOfRange

/-- L16DEC (R86). -/
def execL16dec (w vm : Word) (s : State) : Out := answer (.value (l16dec w vm)) s

/-- VMEXP (R85). -/
def execVmexp (vm : Word) (s : State) : Out := answer (.exponent (vmexp vm)) s

/-- RAWNUM (R87). -/
def execRawnum (w : Word) (s : State) : Out := answer (.value (rawnum w)) s

/-- L11.word (R58): its exponent and mantissa (log 19). -/
def execL11Word (w : Word) (s : State) : Out := answer (.l11Fields (l11Exponent w) (l11Mantissa w)) s

/-- L11ENC.result (R83): the fields of the word with the encoder's exponent and mantissa field `y` (log 19). -/
def execL11encResult (y : BitVec 11) (s : State) : Out :=
  answer (.l11Fields (l11Exponent (l11Pack Config.l11encExp y)) (l11Mantissa (l11Pack Config.l11encExp y))) s

/-- VOUT_MODE.word (R59): its exponent (log 19). -/
def execVoutModeWord (w : Word) (s : State) : Out := answer (.exponent (sext (vmExponentField w))) s

/-- L16.word (R60): its mantissa, unsigned (log 19). -/
def execL16Word (w : Word) (s : State) : Out := answer (.mantissa w.toNat) s

end Sys2Proof.Machine
end

