-- ==== Sys2Proof/Machine/Text.lean ====
section
/-! DEFINITION. The status-word, ASCII block and BCD revision decoders (41_codec_status_text.md): STSDEC R100, ASCDEC R102, BCDREV
R104, and their meanings with those of the word rows STATUS_WORD.word and PMBUS_REVISION.word. -/

namespace Sys2Proof.Machine

/-- Bit indices in the order STSDEC reads them out, bit 15 first (R100). -/
def statusBits : List (Fin 16) := [15, 14, 13, 12, 11, 10, 9, 8, 7, 6, 5, 4, 3, 2, 1, 0]

/-- LIST of STSDEC (R100). -/
def statusList (w : Word) : List (Fin 16) := statusBits.filter fun i => w.getLsbD i.val

/-- TEXTS of STSDEC (R100, R101). -/
def statusTexts (p : Params) (w : Word) : List String :=
  if noFaultFlag w then [p.noFaultText] else (statusList w).map fun i => p.statusTable[i]

/-- The three outputs of STSDEC (R100). -/
def stsdec (p : Params) (w : Word) : Result := .status (statusList w) (noFaultFlag w) (statusTexts p w)

/-- `char7` (R102): the ASCII character, or a free character for a byte from 0x80 on (D24, U7, log 26). -/
def char7 (x : Byte) : Char := if x.toNat < 0x80 then Char.ofNat x.toNat else Config.freeChar x

/-- The bytes ASCDEC decodes (R102): `min(declared, |B| - 1)` bytes after the length prefix. -/
def ascBytes (b : List Byte) : List Byte := (b.drop 1).take (min (b.getD 0 0).toNat (b.length - 1))

/-- ASCDEC (R102); none on the empty sequence, which is refused (D24). -/
def ascdec (b : List Byte) : Option (List Char) := if b.isEmpty then none else some ((ascBytes b).map char7)

/-- `dec(x)` (R104): a nibble in decimal without leading zeros (D25). -/
def decNibble (x : BitVec 4) : List Char :=
  if x.toNat < 10 then [Char.ofNat (48 + x.toNat)] else ['1', Char.ofNat (38 + x.toNat)]

/-- TEXT of BCDREV (R104). -/
def revText (w : Word) : List Char := decNibble (revHigh w) ++ '.' :: decNibble (revLow w)

/-! ## Meanings -/

/-- STSDEC (R100). -/
def execStsdec (w : Word) (s : State) : Out := answer (stsdec s.params w) s

/-- ASCDEC (R102). -/
def execAscdec (b : List Byte) (s : State) : Out :=
  match ascdec b with
  | some t => answer (.text t) s
  | none => .refused .emptyBlock

/-- BCDREV (R104). -/
def execBcdrev (w : Word) (s : State) : Out := answer (.revision (revHigh w) (revLow w) (revText w)) s

/-- STATUS_WORD.word (R61): which of its sixteen bits are set, and their table entries (log 19). -/
def execStatusWordWord (w : Word) (s : State) : Out :=
  answer (.status (statusList w) (noFaultFlag w) (statusTexts s.params w)) s

/-- PMBUS_REVISION.word (R63): its two nibbles (log 19). -/
def execPmbusRevisionWord (w : Word) (s : State) : Out := answer (.nibbles (revHigh w) (revLow w)) s

end Sys2Proof.Machine
end

