-- ==== Sys2Proof/Machine/Transport.lean ====
section
/-! DEFINITION. The eight transport operations (43_transport_ops.md): the prologue and epilogue of R140 once, the body of each
operation (R141 to R148), and their meanings. -/

namespace Sys2Proof.Machine

/-! ## Bodies. Each takes the state after the prologue and leaves the result latch and CAUSE. -/

/-- A failing return of CONNECT (R141): OK <- false, CAUSE <- NotConnected. -/
def connectFailed (s : State) : State := { s with ok := false, cause := .notConnected }

/-- `HidEnumerate(VID, PID)` is called (R141). -/
def callEnumerate (s : State) : State := { s with link := s.link.enumerate s.params.vid s.params.pid }

/-- `HidOpen(d)` is called (R141). -/
def callOpen (d : Nat) (s : State) : State := { s with link := s.link.openDev d }

/-- `HidSetReadTimeout(300 ms)` (R141). -/
def callSetTimeout (s : State) : State := { s with link := s.link.setReadTimeout Config.tReadTimeout }

/-- `CONNECTED <- 1; OK <- true` (R141): the handle on device `d`, with its read timeout (R19c). -/
def setConnected (d : Nat) (s : State) : State := { s with handle := some ⟨d, Config.tReadTimeout⟩, ok := true }

/-- CONNECT from HidEnumerate on (R141): the first match is opened and its read timeout set. -/
def openFirst (s : State) : State :=
  let s' := callEnumerate s
  match s.link.nextEnum with
  | .error => connectFailed s'
  | .devices [] => connectFailed s'
  | .devices (d :: _) =>
    match s'.link.nextOpen with
    | .error => connectFailed (callOpen d s')
    | .ok => setConnected d (callSetTimeout (callOpen d s'))

/-- HidClose and the end of the handle; an error of HidClose is swallowed (R142). -/
def closeHandle (s : State) : State := { s with link := s.link.close, handle := none }

/-- CONNECT (R141). Under `refuse` a CONNECT while connected does not come here (`refusalOf`). -/
def bodyConnect (s : State) : State :=
  if s.connected then
    match s.params.reconnect with
    | .refuse => s
    | .noopTrue => { s with ok := true }
    | .reopen => openFirst (closeHandle s)
  else openFirst s

/-- DISCONNECT (R142). -/
def bodyDisconnect (s : State) : State := if s.connected then closeHandle s else s

/-- ISCONN (R143): the two inputs are looked at when there is a stream (log 29). -/
def bodyIsconn (s : State) : State :=
  if s.connected then
    { s with link := s.link.sampleReady, ok := s.link.nextReadable && s.link.nextWritable }
  else { s with ok := false }

/-- SENDBYTE (R144). -/
def bodySendbyte (s : State) : State :=
  match xwrite s.addr [s.cmd] s with
  | (ok, s) => { s with ok := ok }

/-- WRITEWORD (R146): low byte first. -/
def bodyWriteword (s : State) : State :=
  match xwrite s.addr (s.cmd :: le16 s.wdata) s with
  | (ok, s) => { s with ok := ok }

/-- `PHASE <- SETTLE`, the settle timer started (R145, R147, R201). -/
def startSettle (s : State) : State := { s with phase := .settle, settleTimer := some Config.tSettle }

/-- `Wait(T_SETTLE)` is over (R223): the timer has expired. -/
def endSettle (s : State) : State := { s with settleTimer := none }

/-- READWORD's last lines (R145): the first two data bytes, or a short read. -/
def takeWord (d : Option (List Byte)) (s : State) : State :=
  match d with
  | none => { s with raw := none }
  | some (lo :: hi :: _) => { s with raw := some (word16 lo hi) }
  | some _ => { s with raw := none, cause := .shortOrMalformedResponse }

/-- READWORD (R145). -/
def bodyReadword (s : State) : State :=
  match xwrite s.addr [s.cmd] s with
  | (false, s) => { s with raw := none }
  | (true, s) =>
    match xread s.addr Config.wordReadLen (endSettle (startSettle s)) with
    | (d, s) => takeWord d s

/-- BLOCKREAD (R147). -/
def bodyBlockread (s : State) : State :=
  match xwrite s.addr [s.cmd] s with
  | (false, s) => { s with bytes := none }
  | (true, s) =>
    match xread s.addr Config.blockReadLen (endSettle (startSettle s)) with
    | (d, s) => { s with bytes := d }

/-- The address SCAN_PTR names. -/
def scanAddr (s : State) : Addr := s.scanPtr.setWidth 7

/-- A finished probe (R148): FOUND grows when the probe succeeded; PHASE <- SCAN_NEXT. -/
def noteProbe (present : Bool) (s : State) : State :=
  { s with found := if present then s.found ++ [scanAddr s] else s.found, phase := .scanNext }

/-- `SCAN_PTR <- SCAN_PTR + 1`. -/
def advanceScan (s : State) : State := { s with scanPtr := s.scanPtr + 1 }

/-- One turn of SCAN's loop (R148). -/
def scanTurn (s : State) : State :=
  match xwrite (scanAddr s) [] s with
  | (present, s) => advanceScan (noteProbe present s)

/-- SCAN's loop (R148): while SCAN_PTR <= 0x77, at most `n` turns. -/
def scanLoop : Nat → State → State
  | 0, s => s
  | n + 1, s => if s.scanPtr.toNat ≤ Config.addrHi.toNat then scanLoop n (scanTurn s) else s

/-- `FOUND <- []; SCAN_PTR <- 0x08` (R148). -/
def startScan (s : State) : State := { s with found := [], scanPtr := Config.addrLo.setWidth 8 }

/-- SCAN (R148): a scan that ran to its end has CAUSE None. -/
def bodyScan (s : State) : State := { scanLoop Config.nScan (startScan s) with cause := .none }

/-- The body of the operation latched in OP. -/
def bodyOf : Op → State → State
  | .connect => bodyConnect
  | .disconnect => bodyDisconnect
  | .isconn => bodyIsconn
  | .scan => bodyScan
  | .sendbyte => bodySendbyte
  | .readword => bodyReadword
  | .writeword => bodyWriteword
  | .blockread => bodyBlockread

/-! ## The frame common to all transport operations (R140) -/

/-- The connected test, made with the lock held and before any I/O, then the body (R140). -/
def runBody (s : State) : State :=
  if needsHandle s.op && !s.connected then raise .notConnected s
  else finish (bodyOf s.op s)

/-- One whole transport operation, Acquire to Release (R36, R140). -/
def operate (c : Call) (k : Cont) (s : State) : State := release (runBody (acquire c k s))

/-! ## What the HOST agent does with the result -/

/-- The next transport operation of a sequence (R172): READ_VOUT after a VOUT_MODE word. -/
def nextCall (k : Cont) (s : State) : Option (Call × Cont) :=
  match k with
  | .vout a =>
    match s.raw with
    | some vm => some (.readword a cmdReadVout, .l16 vm)
    | none => none
  | .plain => none
  | .l11 => none
  | .l16 _ => none
  | .mode => none
  | .status => none
  | .rev => none
  | .str => none

/-- The result of a sequence whose last transport operation has left RAW: none gives no result (R89, R170). -/
def ofRaw (o : Option Word) (f : Word → Result) : Result :=
  match o with
  | none => .noResult
  | some w => f w

/-- The result a finished operation or sequence gives its HOST agent (R171 to R178). -/
def conclusion (k : Cont) (s : State) : Result :=
  match k with
  | .plain => latchedResult s
  | .l11 => ofRaw s.raw fun w => .reading w (l11dec w)
  | .vout _ => .noResult
  | .l16 vm => ofRaw s.raw fun w => .reading w (l16dec w vm)
  | .mode => ofRaw s.raw fun w => .modeReading w (vmexp w)
  | .status =>
    ofRaw s.raw fun w => .statusReading w (rawnum w) (statusList w) (noFaultFlag w) (statusTexts s.params w)
  | .rev => ofRaw s.raw fun w => .revReading w (revText w)
  | .str =>
    match s.bytes with
    | none => .noResult
    | some b =>
      match ascdec b with
      | some t => .text t
      | none => .noResult

/-- A transport operation, and the rest of the sequence it begins, run with nobody else acting in between. -/
def performCall (c : Call) (k : Cont) (s : State) : State :=
  let s' := operate c k s
  match nextCall k s' with
  | some (c', k') =>
    let s'' := operate c' k' s'
    deliver s.issuer (conclusion k' s'') s''
  | none => deliver s.issuer (conclusion k s') s'

/-- The address operand of a call. -/
def callAddr : Call → Addr
  | .connect => 0
  | .disconnect => 0
  | .isconn => 0
  | .scan => 0
  | .sendbyte a _ => a
  | .readword a _ => a
  | .writeword a _ _ => a
  | .blockread a _ => a

/-- What is refused when the lock is there to be taken: CONNECT while connected, under `refuse` (R141, D13). -/
def refusesReconnect (c : Call) (s : State) : Bool :=
  c.op == .connect && s.connected && s.params.reconnect == .refuse

/-- A transport operation issued by the issuing agent (R140): refused before Acquire for an address outside the range
(R31); waiting, with no step taken, while the lock is held (R41); else run. -/
def runCall (c : Call) (k : Cont) (s : State) : Out :=
  if !callOk c then .refused (.addressOutOfRange (callAddr c))
  else if s.lock ≠ .free then .next s
  else if refusesReconnect c s then .refused .alreadyConnected
  else .next (performCall c k s)

/-! ## Meanings -/

/-- CONNECT (R141). -/
def execConnect (s : State) : Out := runCall .connect .plain s

/-- DISCONNECT (R142). -/
def execDisconnect (s : State) : Out := runCall .disconnect .plain s

/-- ISCONN (R143). -/
def execIsconn (s : State) : Out := runCall .isconn .plain s

/-- SCAN (R148). -/
def execScan (s : State) : Out := runCall .scan .plain s

/-- SENDBYTE (R144). -/
def execSendbyte (a : Addr) (c : Byte) (s : State) : Out := runCall (.sendbyte a c) .plain s

/-- READWORD (R145). -/
def execReadword (a : Addr) (c : Byte) (s : State) : Out := runCall (.readword a c) .plain s

/-- WRITEWORD (R146). -/
def execWriteword (a : Addr) (c : Byte) (v : Word) (s : State) : Out := runCall (.writeword a c v) .plain s

/-- BLOCKREAD (R147). -/
def execBlockread (a : Addr) (c : Byte) (s : State) : Out := runCall (.blockread a c) .plain s

/-- OPSEL 0x08 to 0x0F: selects nothing, refused (R66a). -/
def execReservedLow (k : BitVec 3) (_s : State) : Out := .refused (.reservedOpsel (0b00001#5 ++ k))

/-- OPSEL 0x18 to 0x1F: selects nothing, refused (R66a). -/
def execReservedHigh (k : BitVec 3) (_s : State) : Out := .refused (.reservedOpsel (0b00011#5 ++ k))

end Sys2Proof.Machine
end

