-- ==== Sys2Proof/Machine/Composite.lean ====
section
/-! DEFINITION. The command catalogue in use (44_catalogue_and_composites.md): each code of R64 with the sequence the spec gives its
register (R171 to R178, log 20). A sequence is not atomic (R170): run by `exec` nobody else acts between its steps; the
interleavings are `Machine/Sequencer.lean`'s (log 23). -/

namespace Sys2Proof.Machine

/-- RD_L11(a, c) (R171). -/
def rdL11 (a : Addr) (c : Byte) (s : State) : Out := runCall (.readword a c) .l11 s

/-- RD_STR(a, c) (R176). -/
def rdStr (a : Addr) (c : Byte) (s : State) : Out := runCall (.blockread a c) .str s

/-- WR_LIMIT(a, c, val) (R173): L11ENC, then WRITEWORD; on a refused input nothing is sent and the sequence has no
result (R170, log 22). DESIGN CHOICE: with the lock held the whole sequence waits, on a refused input too, so its end
without a result comes when the lock is free; R173 does not say when such a sequence ends (log 37). -/
def wrLimit (a : Addr) (c : Byte) (val : F64) (s : State) : Out :=
  if !addrOk a then .refused (.addressOutOfRange a)
  else if s.lock ≠ .free then .next s
  else
    match l11enc s.params s.draws val with
    | .word w => runCall (.writeword a c w) .plain { s with draws := s.draws + 1 }
    | .notFinite => answer .noResult s
    | .outOfRange => answer .noResult s

/-- A limit register: read back (R171) or written (R173). -/
def limitAccess (a : Addr) (c : Byte) (acc : LimitAccess) (s : State) : Out :=
  match acc with
  | .read => rdL11 a c s
  | .write val => wrLimit a c val s

/-- OPERATION: OPER_ON(a), WRITEWORD of 0x0080 (R178, R70). -/
def execOperation (a : Addr) (s : State) : Out := runCall (.writeword a cmdOperation operationOn) .plain s

/-- CLEAR_FAULTS: CLRFLT(a) (R177). -/
def execClearFaults (a : Addr) (s : State) : Out := runCall (.sendbyte a cmdClearFaults) .plain s

/-- VOUT_MODE: the read that yields the Linear16 exponent (R64, R221 B-3, R172 first line, R85; log 20). -/
def execVoutMode (a : Addr) (s : State) : Out := runCall (.readword a cmdVoutMode) .mode s

/-- VOUT_COMMAND: a constant of the catalogue with no access and no format; no sequence touches it (R180, log 20). -/
def execVoutCommand (s : State) : Out := answer (.code cmdVoutCommand) s

/-- VOUT_OV_FAULT_LIMIT (R171, R173). -/
def execVoutOvFaultLimit (a : Addr) (acc : LimitAccess) (s : State) : Out := limitAccess a cmdVoutOvFaultLimit acc s

/-- IOUT_OC_FAULT_LIMIT (R171, R173). -/
def execIoutOcFaultLimit (a : Addr) (acc : LimitAccess) (s : State) : Out := limitAccess a cmdIoutOcFaultLimit acc s

/-- OT_FAULT_LIMIT (R171, R173). -/
def execOtFaultLimit (a : Addr) (acc : LimitAccess) (s : State) : Out := limitAccess a cmdOtFaultLimit acc s

/-- STATUS_WORD: RD_STATUS(a) (R174). -/
def execStatusWord (a : Addr) (s : State) : Out := runCall (.readword a cmdStatusWord) .status s

/-- READ_VIN: RD_L11 (R171). -/
def execReadVin (a : Addr) (s : State) : Out := rdL11 a cmdReadVin s

/-- READ_VOUT: RD_VOUT(a) (R172), VOUT_MODE first. -/
def execReadVout (a : Addr) (s : State) : Out := runCall (.readword a cmdVoutMode) (.vout a) s

/-- READ_IOUT: RD_L11 (R171). -/
def execReadIout (a : Addr) (s : State) : Out := rdL11 a cmdReadIout s

/-- READ_TEMPERATURE_1: RD_L11 (R171). -/
def execReadTemperature1 (a : Addr) (s : State) : Out := rdL11 a cmdReadTemperature1 s

/-- PMBUS_REVISION: RD_REV(a) (R175). -/
def execPmbusRevision (a : Addr) (s : State) : Out := runCall (.readword a cmdPmbusRevision) .rev s

/-- MFR_ID: RD_STR (R176). -/
def execMfrId (a : Addr) (s : State) : Out := rdStr a cmdMfrId s

/-- MFR_MODEL: RD_STR (R176). -/
def execMfrModel (a : Addr) (s : State) : Out := rdStr a cmdMfrModel s

/-- MFR_REVISION: RD_STR (R176). -/
def execMfrRevision (a : Addr) (s : State) : Out := rdStr a cmdMfrRevision s

/-- MFR_SERIAL: RD_STR (R176). -/
def execMfrSerial (a : Addr) (s : State) : Out := rdStr a cmdMfrSerial s

end Sys2Proof.Machine
end

