-- ==== Sys2Proof/Machine/Dispatch.lean ====
section
/-! DEFINITION. The instruction dispatch: one arm per constructor of Instr. -/

namespace Sys2Proof.Machine

def exec (i : Instr) (s : State) : Host.Outcome State Fault Refusal :=
  match i with
  | .connect => Sys2Proof.Machine.execConnect s
  | .disconnect => Sys2Proof.Machine.execDisconnect s
  | .isconn => Sys2Proof.Machine.execIsconn s
  | .scan => Sys2Proof.Machine.execScan s
  | .sendbyte a c => Sys2Proof.Machine.execSendbyte a c s
  | .readword a c => Sys2Proof.Machine.execReadword a c s
  | .writeword a c v => Sys2Proof.Machine.execWriteword a c v s
  | .blockread a c => Sys2Proof.Machine.execBlockread a c s
  | .l11dec w => Sys2Proof.Machine.execL11dec w s
  | .l11enc val => Sys2Proof.Machine.execL11enc val s
  | .l16dec w vm => Sys2Proof.Machine.execL16dec w vm s
  | .stsdec w => Sys2Proof.Machine.execStsdec w s
  | .ascdec b => Sys2Proof.Machine.execAscdec b s
  | .bcdrev w => Sys2Proof.Machine.execBcdrev w s
  | .vmexp vm => Sys2Proof.Machine.execVmexp vm s
  | .rawnum w => Sys2Proof.Machine.execRawnum w s
  | .reservedLow k => Sys2Proof.Machine.execReservedLow k s
  | .reservedHigh k => Sys2Proof.Machine.execReservedHigh k s
  | .hidWrite a pay => Sys2Proof.Machine.execHidWrite a pay s
  | .hidRead a n => Sys2Proof.Machine.execHidRead a n s
  | .hidResp r => Sys2Proof.Machine.execHidResp r s
  | .scanProbe a => Sys2Proof.Machine.execScanProbe a s
  | .sendbyteReport a c => Sys2Proof.Machine.execSendbyteReport a c s
  | .writewordReport a c v => Sys2Proof.Machine.execWritewordReport a c v s
  | .readwordReadphase a => Sys2Proof.Machine.execReadwordReadphase a s
  | .blockreadReadphase a => Sys2Proof.Machine.execBlockreadReadphase a s
  | .l11Word w => Sys2Proof.Machine.execL11Word w s
  | .l11encResult y => Sys2Proof.Machine.execL11encResult y s
  | .voutModeWord w => Sys2Proof.Machine.execVoutModeWord w s
  | .l16Word w => Sys2Proof.Machine.execL16Word w s
  | .statusWordWord w => Sys2Proof.Machine.execStatusWordWord w s
  | .pmbusRevisionWord w => Sys2Proof.Machine.execPmbusRevisionWord w s
  | .operation a => Sys2Proof.Machine.execOperation a s
  | .clearFaults a => Sys2Proof.Machine.execClearFaults a s
  | .voutMode a => Sys2Proof.Machine.execVoutMode a s
  | .voutCommand => Sys2Proof.Machine.execVoutCommand s
  | .voutOvFaultLimit a acc => Sys2Proof.Machine.execVoutOvFaultLimit a acc s
  | .ioutOcFaultLimit a acc => Sys2Proof.Machine.execIoutOcFaultLimit a acc s
  | .otFaultLimit a acc => Sys2Proof.Machine.execOtFaultLimit a acc s
  | .statusWord a => Sys2Proof.Machine.execStatusWord a s
  | .readVin a => Sys2Proof.Machine.execReadVin a s
  | .readVout a => Sys2Proof.Machine.execReadVout a s
  | .readIout a => Sys2Proof.Machine.execReadIout a s
  | .readTemperature1 a => Sys2Proof.Machine.execReadTemperature1 a s
  | .pmbusRevision a => Sys2Proof.Machine.execPmbusRevision a s
  | .mfrId a => Sys2Proof.Machine.execMfrId a s
  | .mfrModel a => Sys2Proof.Machine.execMfrModel a s
  | .mfrRevision a => Sys2Proof.Machine.execMfrRevision a s
  | .mfrSerial a => Sys2Proof.Machine.execMfrSerial a s

end Sys2Proof.Machine
end

