-- ==== Sys2Proof/Machine/Sequencer.lean ====
section
/-! DEFINITION. The SEQUENCER one pseudocode line at a time (10_state.md R10; 43_transport_ops.md R140 to R149), the HOST
agents' turns at the operation port (R40, R41), and the machine's step: whole operations where no interleaving is given,
one line or one HOST request at a time where one is (log 2). -/

namespace Sys2Proof.Machine

/-! ## The SEQUENCER's steps: the lines of 43_transport_ops.md -/

/-- The HOST agent whose operation is in progress (R13). -/
def holder (s : State) : Nat :=
  match s.lock with
  | .held h => h
  | .free => s.issuer

/-- The operation has ended: its agent gets the result, or goes on to the next operation of its sequence (R170). -/
def conclude (h : Nat) (s : State) : State :=
  match nextCall s.cont s with
  | some (c, k) => { s with port := ⟨h, .call c k⟩ :: s.port }
  | none => deliver h (conclusion s.cont s) s

/-- On to line `l`. -/
def goto (l : Line) (s : State) : State := { s with line := l }

/-- The first line of each operation's body (R141 to R148). -/
def firstLine : Op → Line
  | .connect => .whenConnected
  | .disconnect => .disconnect
  | .isconn => .isconn
  | .scan => .scanInit
  | .sendbyte => .sendOk
  | .readword => .sendCmd
  | .writeword => .sendOk
  | .blockread => .sendCmd

/-- The payload of the one report of SENDBYTE (R144) or WRITEWORD (R146). -/
def okPayload (s : State) : List Byte := if s.op = .writeword then s.cmd :: le16 s.wdata else [s.cmd]

/-- How many bytes READWORD (R145) or BLOCKREAD (R147) asks for. -/
def readLen (o : Op) : Nat := if o = .blockread then Config.blockReadLen else Config.wordReadLen

/-- The line that looks at what XREAD returned (R145, R147). -/
def gotData (o : Op) (d : Option (List Byte)) : Line := if o = .blockread then .takeBytes d else .noData d

/-- R140: the connected test, with the lock held and before any I/O; then the body's first line. -/
def testConnected (s : State) : State :=
  if needsHandle s.op && !s.connected then raise .notConnected s else goto (firstLine s.op) s

/-- R141: CONNECT while connected, by its parameter. `refuse` does not come here (`refusesReconnect`). -/
def whenConnected (s : State) : State :=
  if s.connected then
    match s.params.reconnect with
    | .refuse => finish s
    | .noopTrue => finish { s with ok := true }
    | .reopen => goto .enumerate (closeHandle s)
  else goto .enumerate s

/-- R141: the enumeration, and its error. -/
def stepEnumerate (s : State) : State :=
  match s.link.nextEnum with
  | .error => finish (connectFailed (callEnumerate s))
  | .devices ds => goto (.anyDevice ds) (callEnumerate s)

/-- R141: no device, or the first. -/
def stepAnyDevice (ds : List Nat) (s : State) : State :=
  match ds with
  | [] => finish (connectFailed s)
  | d :: _ => goto (.openDev d) s

/-- R141: the first device opened, or not. -/
def stepOpen (d : Nat) (s : State) : State :=
  match s.link.nextOpen with
  | .error => finish (connectFailed (callOpen d s))
  | .ok => goto (.setTimeout d) (callOpen d s)

/-- A write report has been handed to LINK, on to its response; or it has not, and the operation ends (R149b). -/
def afterSend (next : Line) : Bool × State → State
  | (true, s) => goto next s
  | (false, s) => failed s

/-- SENDBYTE or WRITEWORD has been answered (R144, R146). -/
def stepAckOk (s : State) : State :=
  match recvAck s with
  | (ok, s) => finish { s with ok := ok }

/-- The write phase of READWORD or BLOCKREAD has been answered (R145, R147): `PHASE <- SETTLE`, or the end. -/
def stepAckCmd (s : State) : State :=
  match recvAck s with
  | (true, s) => goto .wait (startSettle s)
  | (false, s) => failed s

/-- The read report (R125): on to its response, or XREAD has returned none. -/
def stepSendRead (s : State) : State :=
  match sendRead s.addr (readLen s.op) s with
  | (true, s) => goto .recvRead s
  | (false, s) => goto (gotData s.op none) s

/-- The response to the read report (R125). -/
def stepRecvRead (s : State) : State :=
  match recvData s with
  | (d, s) => goto (gotData s.op d) s

/-- R145: `d` is none, or to be looked at. -/
def stepNoData (d : Option (List Byte)) (s : State) : State :=
  match d with
  | none => finish (takeWord none s)
  | some d => goto (.shortData d) s

/-- R145: `d` is too short, or has a word. -/
def stepShortData (d : List Byte) (s : State) : State :=
  match d with
  | lo :: hi :: _ => goto (.takeWord lo hi) s
  | [] => finish (takeWord (some d) s)
  | [_] => finish (takeWord (some d) s)

/-- R148: the test of the loop, SCAN_PTR <= 0x77. -/
def stepScanWhile (s : State) : State :=
  if s.scanPtr.toNat ≤ Config.addrHi.toNat then goto .probe s else goto .scanEnd s

/-- R148: a probe's report is handed to LINK, or the address is marked absent (D33). -/
def stepProbe (s : State) : State :=
  match sendWrite (scanAddr s) [] s with
  | (true, s) => goto .probeAck s
  | (false, s) => goto .advance (noteProbe false s)

/-- R148: a probe has been answered. -/
def stepProbeAck (s : State) : State :=
  match recvAck s with
  | (present, s) => goto .advance (noteProbe present s)

/-- What the SEQUENCER does at each line. A `PHASE <- X` at the head of a line is made by the step that goes to that
line, as a jump to it would (R8, R14; log 35). -/
def runLine (s : State) : State :=
  match s.line with
  | .idle => s
  | .latch c => goto .clearCause (latchOperands c s)
  | .clearCause => goto .connectedTest { s with cause := .none }
  | .connectedTest => testConnected s
  | .whenConnected => whenConnected s
  | .enumerate => stepEnumerate s
  | .anyDevice ds => stepAnyDevice ds s
  | .openDev d => stepOpen d s
  | .setTimeout d => goto (.setConnected d) (callSetTimeout s)
  | .setConnected d => finish (setConnected d s)
  | .disconnect => finish (bodyDisconnect s)
  | .isconn => finish (bodyIsconn s)
  | .sendOk => afterSend .ackOk (sendWrite s.addr (okPayload s) s)
  | .ackOk => stepAckOk s
  | .sendCmd => afterSend .ackCmd (sendWrite s.addr [s.cmd] s)
  | .ackCmd => stepAckCmd s
  | .wait => goto .sendRead (endSettle s)
  | .sendRead => stepSendRead s
  | .recvRead => stepRecvRead s
  | .noData d => stepNoData d s
  | .shortData d => stepShortData d s
  | .takeWord lo hi => finish { s with raw := some (word16 lo hi) }
  | .takeBytes d => finish { s with bytes := d }
  | .scanInit => goto .scanWhile (startScan s)
  | .scanWhile => stepScanWhile s
  | .probe => stepProbe s
  | .probeAck => stepProbeAck s
  | .advance => goto .scanWhile (advanceScan s)
  | .scanEnd => finish { s with cause := .none }
  | .release => conclude (holder s) (release s)

/-- The operations a line belongs to; the lines of R140 belong to all. -/
def Line.fits (o : Op) : Line → Bool
  | .idle | .latch _ | .clearCause | .connectedTest | .release => true
  | .whenConnected | .enumerate | .anyDevice _ | .openDev _ | .setTimeout _ | .setConnected _ => o == .connect
  | .disconnect => o == .disconnect
  | .isconn => o == .isconn
  | .sendOk | .ackOk => o == .sendbyte || o == .writeword
  | .sendCmd | .ackCmd | .wait | .sendRead | .recvRead => o == .readword || o == .blockread
  | .noData _ | .shortData _ | .takeWord _ _ => o == .readword
  | .takeBytes _ => o == .blockread
  | .scanInit | .scanWhile | .probe | .probeAck | .advance | .scanEnd => o == .scan

/-- The values PHASE can have at a line (R14, R149). -/
def Line.inPhase (p : Phase) : Line → Bool
  | .idle => p == .idle
  | .latch _ | .clearCause | .connectedTest | .whenConnected | .enumerate | .anyDevice _ | .openDev _ | .setTimeout _
  | .setConnected _ | .disconnect | .isconn | .sendOk | .sendCmd | .scanInit => p == .check
  | .ackOk | .ackCmd | .probeAck => p == .wSent
  | .wait | .sendRead => p == .settle
  | .recvRead | .noData (some _) | .shortData _ | .takeWord _ _ | .takeBytes (some _) => p == .rSent
  | .noData none | .takeBytes none => p == .settle || p == .rSent
  | .scanWhile | .probe | .scanEnd => p == .check || p == .scanNext
  | .advance => p == .scanNext
  | .release => p == .done

/-- One step of the SEQUENCER: one pseudocode line (R10, R149). -/
def seqStep (s : State) : Out :=
  if s.line.fits s.op && s.line.inPhase s.phase then .next (runLine s) else .fault (.noSuchLine s.line s.op)

/-- The SEQUENCER's steps until the operation has ended, at most `n` of them. -/
def runToIdle : Nat → State → Out
  | 0, s => .next s
  | n + 1, s =>
    if s.phase = .idle then .next s
    else
      match seqStep s with
      | .next s' => runToIdle n s'
      | .fault f => .fault f
      | .refused r => .refused r

/-- More steps than any operation takes: a scan has four per address (R148, R149c). -/
def longestRun : Nat := 4 * Config.nScan + 16

/-! ## HOST agents -/

/-- What issuing an instruction is: a codec operation (R20), a use of the FRAMER alone, a transport operation with the
rest of a sequence, or the write of a limit register, whose word is encoded first (R173). -/
inductive Plan where
  | codec
  | framer
  | call (c : Call) (k : Cont)
  | limitWrite (a : Addr) (c : Byte) (val : F64)
  deriving DecidableEq, Repr

/-- The plan of a limit register's access (R171, R173). -/
def limitPlan (a : Addr) (c : Byte) : LimitAccess → Plan
  | .read => .call (.readword a c) .l11
  | .write val => .limitWrite a c val

/-- The plan of each instruction. -/
def plan : Instr → Plan
  | .connect => .call .connect .plain
  | .disconnect => .call .disconnect .plain
  | .isconn => .call .isconn .plain
  | .scan => .call .scan .plain
  | .sendbyte a c => .call (.sendbyte a c) .plain
  | .readword a c => .call (.readword a c) .plain
  | .writeword a c v => .call (.writeword a c v) .plain
  | .blockread a c => .call (.blockread a c) .plain
  | .l11dec _ => .codec
  | .l11enc _ => .codec
  | .l16dec _ _ => .codec
  | .stsdec _ => .codec
  | .ascdec _ => .codec
  | .bcdrev _ => .codec
  | .vmexp _ => .codec
  | .rawnum _ => .codec
  | .reservedLow _ => .codec
  | .reservedHigh _ => .codec
  | .hidWrite _ _ => .framer
  | .hidRead _ _ => .framer
  | .hidResp _ => .framer
  | .scanProbe _ => .framer
  | .sendbyteReport _ _ => .framer
  | .writewordReport _ _ _ => .framer
  | .readwordReadphase _ => .framer
  | .blockreadReadphase _ => .framer
  | .l11Word _ => .codec
  | .l11encResult _ => .codec
  | .voutModeWord _ => .codec
  | .l16Word _ => .codec
  | .statusWordWord _ => .codec
  | .pmbusRevisionWord _ => .codec
  | .operation a => .call (.writeword a cmdOperation operationOn) .plain
  | .clearFaults a => .call (.sendbyte a cmdClearFaults) .plain
  | .voutMode a => .call (.readword a cmdVoutMode) .mode
  | .voutCommand => .codec
  | .voutOvFaultLimit a acc => limitPlan a cmdVoutOvFaultLimit acc
  | .ioutOcFaultLimit a acc => limitPlan a cmdIoutOcFaultLimit acc
  | .otFaultLimit a acc => limitPlan a cmdOtFaultLimit acc
  | .statusWord a => .call (.readword a cmdStatusWord) .status
  | .readVin a => .call (.readword a cmdReadVin) .l11
  | .readVout a => .call (.readword a cmdVoutMode) (.vout a)
  | .readIout a => .call (.readword a cmdReadIout) .l11
  | .readTemperature1 a => .call (.readword a cmdReadTemperature1) .l11
  | .pmbusRevision a => .call (.readword a cmdPmbusRevision) .rev
  | .mfrId a => .call (.blockread a cmdMfrId) .str
  | .mfrModel a => .call (.blockread a cmdMfrModel) .str
  | .mfrRevision a => .call (.blockread a cmdMfrRevision) .str
  | .mfrSerial a => .call (.blockread a cmdMfrSerial) .str

/-- Whether an instruction has to wait while the lock is held: all but the codec's (R20, R41). -/
def needsLock (i : Instr) : Bool := plan i != .codec

/-- Acquire without running on (R140, R41): refused, or the lock taken and PHASE at CHECK. -/
def beginCall (c : Call) (k : Cont) (s : State) : Out :=
  if !callOk c then .refused (.addressOutOfRange (callAddr c))
  else if refusesReconnect c s then .refused .alreadyConnected
  else .next (takeLock c k s)

/-- WR_LIMIT begun (R173): the word is encoded, then its WRITEWORD begun. -/
def beginLimitWrite (a : Addr) (c : Byte) (val : F64) (s : State) : Out :=
  if !addrOk a then .refused (.addressOutOfRange a)
  else
    match l11enc s.params s.draws val with
    | .word w => beginCall (.writeword a c w) .plain { s with draws := s.draws + 1 }
    | .notFinite => answer .noResult s
    | .outOfRange => answer .noResult s

/-- An instruction issued with the interleaving left to `turns`: a transport operation is only begun. -/
def issue (i : Instr) (s : State) : Out :=
  match plan i with
  | .codec => exec i s
  | .framer => exec i s
  | .call c k => beginCall c k s
  | .limitWrite a c val => beginLimitWrite a c val s

/-- The oldest request of agent `h`, and the port without it (R40: an agent's operations keep their issue order). -/
def takeFirst (h : Nat) : List Pending → Option (Work × List Pending)
  | [] => none
  | p :: ps =>
    if p.agent = h then some (p.work, ps)
    else
      match takeFirst h ps with
      | some (w, rest) => some (w, p :: rest)
      | none => none

/-- The instruction at the port is one that waits now: the lock is held, and it needs it (R41). A WR_LIMIT whose value
L11ENC refuses waits like any other (log 37). -/
def mustWait (i : Instr) (s : State) : Bool := needsLock i && i.wellFormed && s.lock != .free

/-- HOST agent `h`'s turn. While its own operation is in progress it waits for the result, whatever it asks for next
(R10, R40, R199). Else its oldest request is issued, or waits with no step taken (R41). -/
def hostTurn (h : Nat) (s : State) : Out :=
  if s.lock = .held h then .next s
  else
    match takeFirst h s.port with
    | none => .next s
    | some (.call c k, rest) =>
      if s.lock ≠ .free then .next s else beginCall c k { s with port := rest, issuer := h }
    | some (.request f bs, rest) =>
      match decode f bs with
      | .rejected e => .refused (.undecodable e)
      | .ok i => if mustWait i s then .next s else issue i { s with port := rest, issuer := h }

/-! ## The machine's step -/

/-- The oldest request of the port, run whole. -/
def serve (p : Pending) (rest : List Pending) (s : State) : Out :=
  if s.lock = .held p.agent then .next s
  else
    match p.work with
    | .call c k =>
      if s.lock ≠ .free then .next s else runCall c k { s with port := rest, issuer := p.agent }
    | .request f bs =>
      match decode f bs with
      | .rejected e => .refused (.undecodable e)
      | .ok i => if mustWait i s then .next s else exec i { s with port := rest, issuer := p.agent }

/-- With no interleaving given, nobody acts between the steps of an operation: one in progress runs on to its end, and
the oldest request is run whole. With nothing to do the block waits in IDLE (R220). -/
def stepAlone (s : State) : Out :=
  if s.phase ≠ .idle then runToIdle longestRun s
  else
    match s.port with
    | [] => .next s
    | p :: rest => serve p rest s

/-- One step: the next turn of the interleaving, if one is given. -/
def nextStep (s : State) : Out :=
  match s.turns with
  | [] => stepAlone s
  | .sequencer :: ts => seqStep { s with turns := ts }
  | .host h :: ts => hostTurn h { s with turns := ts }

/-- The request of agent 0, given as a format and bytes, put where the next step takes it: first at the port, no turn
before it, and no operation in progress. -/
def placeRequest (f : Fmt) (bs : List Byte) (s : State) : State :=
  { s with port := ⟨0, .request f bs⟩ :: s.port, turns := [], phase := .idle, line := .idle, lock := .free }

end Sys2Proof.Machine
end

