-- ==== Sys2Proof/Machine/Step.lean ====
section
/-! DEFINITION. One step of the machine, and where the next instruction is taken from. -/

namespace Sys2Proof.Machine

/-- One step (Machine/Sequencer.lean). -/
def step (s : State) : Host.Outcome State Fault Refusal := nextStep s

/-- `s` with the instruction of an opcode-table number at the operation port, where the next step takes it (log 34). -/
def State.withFetchWord (s : State) (nbits w : Nat) : State :=
  placeRequest (tableWord nbits w).1 (tableWord nbits w).2 s

end Sys2Proof.Machine
end

