-- ==== Sys2Proof/Safety.lean ====
section
/-! DEFINITION. What a safe run is: the invariants of 10_state.md R27 and the rules the spec gives for every reachable state, and the
words the statements use. -/

namespace Sys2Proof.Machine

/-! ## The traffic on LINK -/

/-- Whether HidWrite and HidRead alternate (R27 I-4, R153 T-3), newest call first: `some true` when a report handed
over awaits its HidRead, `some false` when none does, `none` when the rule is broken. A HidWrite that LINK answers
with an error has no HidRead (R152). -/
def pairing : List LinkCall → Option Bool
  | [] => some false
  | .write _ .ok :: rest => if pairing rest = some false then some true else none
  | .write _ .error :: rest => if pairing rest = some false then some false else none
  | .read _ :: rest => if pairing rest = some true then some false else none
  | .enumerate _ _ _ :: rest => if pairing rest = some false then some false else none
  | .openDev _ _ :: rest => if pairing rest = some false then some false else none
  | .setReadTimeout _ :: rest => if pairing rest = some false then some false else none
  | .close _ :: rest => if pairing rest = some false then some false else none

/-- A report the framer may hand to LINK: a write or a read report for a valid address, of at most MAX_PAYLOAD bytes
(R51, R52, R31, R66b, R66d). -/
def LegalReport (p : Params) (buf : List Byte) : Prop :=
  ∃ a : Addr, addrOk a = true ∧
    ((∃ pay : List Byte, pay.length ≤ Config.maxPayload ∧ buf = frameW p a pay) ∨
      ∃ n : Byte, n.toNat ≤ Config.maxPayload ∧ buf = frameR p a n)

/-- The lines that await a response to a report handed to LINK (R23a). -/
def awaiting : Line → Bool
  | .ackOk | .ackCmd | .probeAck | .recvRead => true
  | .idle | .latch _ | .clearCause | .connectedTest | .whenConnected | .enumerate | .anyDevice _ | .openDev _
  | .setTimeout _ | .setConnected _ | .disconnect | .isconn | .sendOk | .sendCmd | .wait | .sendRead | .noData _
  | .shortData _ | .takeWord _ _ | .takeBytes _ | .scanInit | .scanWhile | .probe | .advance | .scanEnd | .release =>
    false

/-- The lines of the operations that need a handle, past the connected test (R140). -/
def usesHandle : Line → Bool
  | .sendOk | .ackOk | .sendCmd | .ackCmd | .wait | .sendRead | .recvRead | .noData _ | .shortData _ | .takeWord _ _
  | .takeBytes _ | .scanInit | .scanWhile | .probe | .probeAck | .advance | .scanEnd => true
  | .idle | .latch _ | .clearCause | .connectedTest | .whenConnected | .enumerate | .anyDevice _ | .openDev _
  | .setTimeout _ | .setConnected _ | .disconnect | .isconn | .release => false

/-- The lines of CONNECT past its test (R141): there is no handle while one is being opened. -/
def opening : Line → Bool
  | .enumerate | .anyDevice _ | .openDev _ | .setTimeout _ | .setConnected _ => true
  | .idle | .latch _ | .clearCause | .connectedTest | .whenConnected | .disconnect | .isconn | .sendOk | .ackOk
  | .sendCmd | .ackCmd | .wait | .sendRead | .recvRead | .noData _ | .shortData _ | .takeWord _ _ | .takeBytes _
  | .scanInit | .scanWhile | .probe | .probeAck | .advance | .scanEnd | .release => false

/-- The lines past the latching of the operands (R140). -/
def latched : Line → Bool
  | .idle | .latch _ => false
  | .clearCause | .connectedTest | .whenConnected | .enumerate | .anyDevice _ | .openDev _ | .setTimeout _
  | .setConnected _ | .disconnect | .isconn | .sendOk | .ackOk | .sendCmd | .ackCmd | .wait | .sendRead | .recvRead
  | .noData _ | .shortData _ | .takeWord _ _ | .takeBytes _ | .scanInit | .scanWhile | .probe | .probeAck | .advance
  | .scanEnd | .release => true

/-- READWORD or BLOCKREAD: the operations with a read phase. -/
def readsData : Op → Bool
  | .readword => true
  | .blockread => true
  | .connect => false
  | .disconnect => false
  | .isconn => false
  | .scan => false
  | .sendbyte => false
  | .writeword => false

/-! ## The invariant -/

/-- What holds in every reachable state (R12, R13, R14, R18, R19, R23, R27). -/
structure Inv (s : State) : Prop where
  /-- I-2: LOCK = free iff PHASE = IDLE -/
  lock_free_iff_idle : s.lock = .free ↔ s.phase = .idle
  /-- R14, R149: the line is one PHASE stands at, and one of the operation in progress -/
  line_phase : s.line.inPhase s.phase = true
  line_op : s.line.fits s.op = true
  /-- R31: an operand about to be latched is valid -/
  line_call : ∀ c, s.line = .latch c → callOk c = true
  /-- R23b: the settle timer runs during `Wait(T_SETTLE)` only -/
  settle_timer : s.settleTimer = if s.line = .wait then some Config.tSettle else none
  /-- R23c: the read deadline runs while a response is awaited only -/
  read_deadline : s.readDeadline = if awaiting s.line then some Config.tReadTimeout else none
  /-- I-3: reports are exchanged only with a handle -/
  connected : usesHandle s.line = true → s.connected = true
  /-- I-1: a handle is opened only where there is none -/
  no_handle : opening s.line = true → s.connected = false
  /-- R19c: the handle's read timeout -/
  timeout : ∀ h, s.handle = some h → h.readTimeout = Config.tReadTimeout
  /-- I-4, I-5, T-3: one HidRead per HidWrite, and none owed when no response is awaited -/
  paired : pairing s.link.traffic = some (awaiting s.line)
  /-- I-3, F-1, F-2: every report handed to LINK is a legal one -/
  reports : ∀ buf ans, LinkCall.write buf ans ∈ s.link.traffic → LegalReport s.params buf
  /-- the buffers keep their canonical form and IN its capacity (R17) -/
  out_wf : s.out.wf = true
  inb_wf : s.inb.wf = true
  in_len : s.inLen ≤ s.params.lIn
  /-- R15: |PAY| <= 60, RLEN <= 60 -/
  pay_len : s.pay.length ≤ Config.maxPayload
  rlen_le : s.rlen.toNat ≤ Config.maxPayload
  /-- R31: the address of an operation in progress is valid -/
  addr_ok : latched s.line = true → s.op ≠ .scan → needsHandle s.op = true → addrOk s.addr = true
  /-- R148: FOUND is strictly ascending and within [0x08, 0x77] -/
  found_sorted : s.found.Pairwise (· < ·)
  found_ok : ∀ a ∈ s.found, addrOk a = true
  /-- R18: SCAN_PTR during a scan, and FOUND below it -/
  scan_while : s.line = .scanWhile →
    0x08 ≤ s.scanPtr.toNat ∧ s.scanPtr.toNat ≤ 0x78 ∧ ∀ a ∈ s.found, a.toNat < s.scanPtr.toNat
  scan_probe : s.line = .probe ∨ s.line = .probeAck →
    0x08 ≤ s.scanPtr.toNat ∧ s.scanPtr.toNat ≤ 0x77 ∧ ∀ a ∈ s.found, a.toNat < s.scanPtr.toNat
  scan_advance : s.line = .advance →
    0x08 ≤ s.scanPtr.toNat ∧ s.scanPtr.toNat ≤ 0x77 ∧ ∀ a ∈ s.found, a.toNat ≤ s.scanPtr.toNat

/-! ## Words of the statements: exchanges seen from LINK alone -/

/-- What one or two exchanges come to: the cause of the failure (`none` for success), the report received last, the
data bytes, and LINK afterwards. -/
structure Exchange where
  cause : Cause
  received : Option (List Byte)
  data : List Byte
  link : Link
  deriving DecidableEq, Repr

/-- A write exchange (R124): one write report out, one HidRead, success iff the first byte is 0x01. -/
def exchangeW (p : Params) (a : Addr) (pay : List Byte) (l : Link) : Exchange :=
  let l1 := l.hidWrite (frameW p a pay)
  match l.nextWrite with
  | .error => ⟨.linkError, none, [], l1⟩
  | .ok =>
    match l1.nextRead p.lIn with
    | .timeout => ⟨.timeout, none, [], l1.hidRead p.lIn⟩
    | .error => ⟨.linkError, none, [], l1.hidRead p.lIn⟩
    | .report r =>
      ⟨if r.head? = some Config.ackOk then .none else .shortOrMalformedResponse, some r, [], l1.hidRead p.lIn⟩

/-- A read exchange (R125): one read report out, one HidRead, the data bytes of PARSERD. -/
def exchangeR (p : Params) (a : Addr) (n : Nat) (l : Link) : Exchange :=
  let l1 := l.hidWrite (frameR p a (BitVec.ofNat 8 n))
  match l.nextWrite with
  | .error => ⟨.linkError, none, [], l1⟩
  | .ok =>
    match l1.nextRead p.lIn with
    | .timeout => ⟨.timeout, none, [], l1.hidRead p.lIn⟩
    | .error => ⟨.linkError, none, [], l1.hidRead p.lIn⟩
    | .report r =>
      match parseRd r with
      | some d => ⟨.none, some r, d, l1.hidRead p.lIn⟩
      | none => ⟨.shortOrMalformedResponse, some r, [], l1.hidRead p.lIn⟩

/-- The two exchanges of a read (R145, R147): the second only after a successful first. -/
def exchangeWR (p : Params) (a : Addr) (c : Byte) (n : Nat) (l : Link) : Exchange :=
  let w := exchangeW p a [c] l
  match w.cause with
  | .none =>
    let r := exchangeR p a n w.link
    { r with received := r.received.or w.received }
  | .notConnected => w
  | .timeout => w
  | .shortOrMalformedResponse => w
  | .payloadTooLarge => w
  | .linkError => w

/-- The addresses a scan probes, in order (R148). -/
def scanAddresses : List Addr := (List.range Config.nScan).map fun i => Config.addrLo + BitVec.ofNat 7 i

/-- Probing a list of addresses in order (R148): those that answer with the success ack, and LINK after the last. -/
def probeAll (p : Params) : List Addr → Link → List Addr × Link
  | [], l => ([], l)
  | a :: as, l =>
    let x := exchangeW p a [] l
    let rest := probeAll p as x.link
    (if x.cause = .none then a :: rest.1 else rest.1, rest.2)

/-- CONNECT's calls (R141): the device opened, if one was, and LINK afterwards. -/
def connectLink (p : Params) (l : Link) : Option Nat × Link :=
  let l1 := l.enumerate p.vid p.pid
  match l.nextEnum with
  | .error => (none, l1)
  | .devices [] => (none, l1)
  | .devices (d :: _) =>
    match l1.nextOpen with
    | .error => (none, l1.openDev d)
    | .ok => (some d, (l1.openDev d).setReadTimeout Config.tReadTimeout)

/-- How many reports the block has handed to LINK. -/
def writeCount : List LinkCall → Nat
  | [] => 0
  | .write _ _ :: rest => writeCount rest + 1
  | .read _ :: rest => writeCount rest
  | .enumerate _ _ _ :: rest => writeCount rest
  | .openDev _ _ :: rest => writeCount rest
  | .setReadTimeout _ :: rest => writeCount rest
  | .close _ :: rest => writeCount rest

/-- How many reports the block has asked LINK for. -/
def readCount : List LinkCall → Nat
  | [] => 0
  | .write _ _ :: rest => readCount rest
  | .read _ :: rest => readCount rest + 1
  | .enumerate _ _ _ :: rest => readCount rest
  | .openDev _ _ :: rest => readCount rest
  | .setReadTimeout _ :: rest => readCount rest
  | .close _ :: rest => readCount rest

/-- An operation has ended (R41 L-4, R197, R201): lock free, PHASE IDLE, no line to take, no timer running; and what no operation
writes is as it was: the parameters, the port, the turns and the issuing agent. -/
structure EndsIdle (s t : State) : Prop where
  lock : t.lock = .free
  phase : t.phase = .idle
  line : t.line = .idle
  settle : t.settleTimer = none
  deadline : t.readDeadline = none
  params : t.params = s.params
  port : t.port = s.port
  turns : t.turns = s.turns
  issuer : t.issuer = s.issuer

/-- The buffers, the operand latches, the scan pointer and the results of READWORD, BLOCKREAD and SCAN are as they
were: what CONNECT, DISCONNECT and ISCONN leave alone (R141 to R143). That they hold anything between operations is the
model's choice (log 38). -/
structure KeepsData (s t : State) : Prop where
  addr : t.addr = s.addr
  cmd : t.cmd = s.cmd
  wdata : t.wdata = s.wdata
  pay : t.pay = s.pay
  rlen : t.rlen = s.rlen
  raw : t.raw = s.raw
  bytes : t.bytes = s.bytes
  found : t.found = s.found
  out : t.out = s.out
  inb : t.inb = s.inb
  inLen : t.inLen = s.inLen
  scanPtr : t.scanPtr = s.scanPtr

/-- Nothing of the SEQUENCER, the handle, the buffers or LINK differs (R11): only the port, the issuing agent, the
turns and what has been delivered may. -/
structure SameBlock (s t : State) : Prop where
  params : t.params = s.params
  handle : t.handle = s.handle
  lock : t.lock = s.lock
  phase : t.phase = s.phase
  line : t.line = s.line
  op : t.op = s.op
  addr : t.addr = s.addr
  cmd : t.cmd = s.cmd
  wdata : t.wdata = s.wdata
  pay : t.pay = s.pay
  rlen : t.rlen = s.rlen
  ok : t.ok = s.ok
  raw : t.raw = s.raw
  bytes : t.bytes = s.bytes
  found : t.found = s.found
  cause : t.cause = s.cause
  out : t.out = s.out
  inb : t.inb = s.inb
  inLen : t.inLen = s.inLen
  scanPtr : t.scanPtr = s.scanPtr
  settleTimer : t.settleTimer = s.settleTimer
  readDeadline : t.readDeadline = s.readDeadline
  link : t.link = s.link
  cont : t.cont = s.cont

/-- PHASE stays, or moves along the arrows of R149. -/
def phaseArrow : Phase → Phase → Bool
  | .idle, q => q == .idle
  | .check, q => q == .check || q == .wSent || q == .scanNext || q == .done
  | .wSent, q => q == .settle || q == .scanNext || q == .done
  | .settle, q => q == .settle || q == .rSent || q == .done
  | .rSent, q => q == .rSent || q == .done
  | .scanNext, q => q == .scanNext || q == .wSent || q == .done
  | .done, q => q == .idle

/-- With the lock free, HOST agent `h`'s turn begins operation `c` with continuation `k`: its oldest request is an
instruction that is one operation or a sequence's first (R170), or the operation a sequence goes on with, or WR_LIMIT with
a value L11ENC encodes (R173). `rest` is the port without it, `d` the counter of the codec's free values afterwards. -/
def TurnBegins (s : State) (h : Nat) (c : Call) (k : Cont) (rest : List Pending) (d : Nat) : Prop :=
  (∃ (f : Fmt) (bs : List Byte) (i : Instr), takeFirst h s.port = some (.request f bs, rest) ∧
    decode f bs = .ok i ∧ plan i = .call c k ∧ d = s.draws) ∨
  (takeFirst h s.port = some (.call c k, rest) ∧ d = s.draws) ∨
  (∃ (f : Fmt) (bs : List Byte) (i : Instr) (a : Addr) (cmd : Byte) (v : F64) (w : Word),
    takeFirst h s.port = some (.request f bs, rest) ∧ decode f bs = .ok i ∧ plan i = .limitWrite a cmd v ∧
    l11enc s.params s.draws v = .word w ∧ c = .writeword a cmd w ∧ k = .plain ∧ d = s.draws + 1)

/-- Whether an answer is no next state. -/
def stops : Out → Bool
  | .next _ => false
  | .fault _ => true
  | .refused _ => true

end Sys2Proof.Machine
end

