-- ==== Sys2Proof/Certificates/Slice0/Obligations.lean ====
section
/-! DEFINITION. The statements for the provers, from the numbered rules of the spec. -/

open Sys2Proof Sys2Proof.Machine

/-! ## Encodings -/

/-- Decoding the encoding of a well-formed instruction gives it back, with every operand (R51, R52, R57 to R60, R63 to R65). -/
def Obligations.DecodeInvertsEncode : Prop :=
  ∀ i : Instr, i.wellFormed = true → decode (encode i).1 (encode i).2 = .ok i

/-- Words written out from the encodings of R51 to R53, R58, R63 to R66 decode to the instruction they stand for. The operand
bytes beside an OPSEL or a command code are the model's layout (log 1). Where the words of two rows of the opcode table overlap,
that the row of the more specific shape is given (WRITEWORD.report, SCAN.probe and BLOCKREAD.readphase, not HID.WRITE and
HID.READ; L11ENC.result, not L11.word) is the model's choice (log 18). The catalogue is closed (R181): every byte that is not one
of its 17 codes is rejected by name. -/
def Obligations.SpecWordsDecode : Prop :=
  decode .opsel [0b00000000] = .ok .connect ∧
  decode .opsel [0b00000011] = .ok .scan ∧
  decode .opsel [0b00000101, 0x38, 0x8B] = .ok (.readword 0x40 0x8B) ∧
  decode .opsel [0b00010000, 0x32, 0xF0] = .ok (.l11dec 0xF032) ∧
  decode .opsel [0b00010101, 0x22, 0x00] = .ok (.bcdrev 0x0022) ∧
  decode .opsel [0b00001111] = .ok (.reservedLow 7) ∧
  decode .hidw [0x00, 0x57, 0b10000000, 0x03, 0x4F, 0x54, 0xF1] = .ok (.writewordReport 0x40 0x4F 0xF154) ∧
  decode .hidw [0x00, 0x57, 0b11101110, 0x00] = .ok (.scanProbe 0x77) ∧
  decode .hidr [0x00, 0x52, 0b10000001, 0x21] = .ok (.blockreadReadphase 0x40) ∧
  decode .hidi [0x01, 0x02, 0x00, 0x1A] = .ok (.hidResp [0x01, 0x02, 0x00, 0x1A]) ∧
  decode .l11 [0x54, 0b11110001] = .ok (.l11encResult 0b00101010100) ∧
  decode .cmd [0x8B, 0x38] = .ok (.readVout 0x40) ∧
  (∀ (c : Byte) (rest : List Byte),
     c ∉ [0x01#8, 0x03#8, 0x20#8, 0x21#8, 0x40#8, 0x46#8, 0x4F#8, 0x79#8, 0x88#8, 0x8B#8, 0x8C#8, 0x8D#8, 0x98#8,
       0x99#8, 0x9A#8, 0x9B#8, 0x9E#8] →
     decode .cmd (c :: rest) = .rejected .code)

/-- The report FRAMEW or FRAMER builds, all L_OUT bytes of it, is decoded as the row of its own shape: address, payload and
length are read back and FILL is ignored (R51, R52, R57). That the row is the one of its own shape and never HID.WRITE or HID.READ
is the model's choice (log 18). -/
def Obligations.BuiltReportsDecode : Prop :=
  ∀ (p : Params) (a : Addr),
    (∀ pay : List Byte, pay.length ≤ 60 → decode .hidw (frameW p a pay) = .ok (Decode.writeShape a pay)) ∧
    (∀ n : Byte, n.toNat ≤ 60 → decode .hidr (frameR p a n) = .ok (Decode.readShape a n))

/-- Low byte first (R33), and the address byte (R54), with R54's three examples. -/
def Obligations.WireByteOrder : Prop :=
  (∀ lo hi : Byte, (word16 lo hi).toNat = lo.toNat + 256 * hi.toNat) ∧
  (∀ v : Word, ∃ lo hi : Byte, le16 v = [lo, hi] ∧ lo.toNat = v.toNat % 256 ∧ hi.toNat = v.toNat / 256 ∧
    word16 lo hi = v) ∧
  (∀ a : Addr, (addrByteW a).toNat = 2 * a.toNat ∧ (addrByteR a).toNat = 2 * a.toNat + 1) ∧
  addrByteW 0x08 = 0x10 ∧ addrByteR 0x08 = 0x11 ∧ addrByteW 0x40 = 0x80 ∧ addrByteR 0x40 = 0x81 ∧
  addrByteW 0x77 = 0xEE ∧ addrByteR 0x77 = 0xEF

/-! ## The numeric codec -/

/-- R80: sign extension of a 5-bit and of an 11-bit field, in the bit-test form the source gives and as a number. -/
def Obligations.SignExtensionRule : Prop :=
  (∀ v : BitVec 5, sext v = (if v.getLsbD 4 then (v.toNat : Int) - 32 else v.toNat) ∧
    (orExtend5 v).toInt = sext v) ∧
  (∀ v : BitVec 11, sext v = (if v.getLsbD 10 then (v.toNat : Int) - 2048 else v.toNat) ∧
    (orExtend11 v).toInt = sext v) ∧
  sext (0x00#5) = 0 ∧ sext (0x01#5) = 1 ∧ sext (0x0F#5) = 15 ∧ sext (0x10#5) = -16 ∧ sext (0x11#5) = -15 ∧
  sext (0x1E#5) = -2 ∧ sext (0x1F#5) = -1 ∧
  sext (0x000#11) = 0 ∧ sext (0x001#11) = 1 ∧ sext (0x3FF#11) = 1023 ∧ sext (0x400#11) = -1024 ∧
  sext (0x401#11) = -1023 ∧ sext (0x7FF#11) = -1

/-- R82: the bit pattern of the f64 that equals A × 2^N, and which A and N each decoder uses. -/
def Obligations.DecoderBitPattern : Prop :=
  (∀ A N : Int, 1 ≤ A.natAbs → A.natAbs ≤ 65535 → -16 ≤ N → N ≤ 15 →
    ∃ k : Nat, k ≤ 15 ∧ 2 ^ k ≤ A.natAbs ∧ A.natAbs < 2 ^ (k + 1) ∧
      (packF64 A N).msb = decide (A < 0) ∧
      (f64Exponent (packF64 A N) : Int) = 1023 + k + N ∧
      1007 ≤ f64Exponent (packF64 A N) ∧ f64Exponent (packF64 A N) ≤ 1053 ∧
      f64Fraction (packF64 A N) = (A.natAbs - 2 ^ k) * 2 ^ (52 - k) ∧
      f64Value (packF64 A N) = (A : ℚ) * (2 : ℚ) ^ N) ∧
  (∀ N : Int, packF64 0 N = 0) ∧
  (∀ w : Word, l11dec w = packF64 (l11Mantissa w) (l11Exponent w) ∧ (l11Mantissa w).natAbs ≤ 1024) ∧
  (∀ w vm : Word, l16dec w vm = packF64 w.toNat (vmexp vm)) ∧
  (∀ w : Word, rawnum w = packF64 w.toNat 0) ∧
  packF64 50 (-2) = 0x4029000000000000

/-- R81: L11DEC (OPSEL 0x10) completes in every state and gives mantissa times two to the exponent, exactly; +0.0 for a zero
mantissa; the extreme values; nothing else of the state changes (R20). -/
def Obligations.LinearElevenDecode : Prop :=
  (∀ (s : State) (w : Word), ∃ v : F64,
    exec (.l11dec w) s = .next { s with delivered := ⟨s.issuer, .value v⟩ :: s.delivered, draws := s.draws + 1 } ∧
    f64Finite v = true ∧
    f64Value v = (sext (w.extractLsb' 0 11) : ℚ) * (2 : ℚ) ^ sext (w.extractLsb' 11 5) ∧
    (w.extractLsb' 0 11 = 0 → v = 0) ∧
    f64Value v ≤ 33521664 ∧ -33554432 ≤ f64Value v ∧
    (v ≠ 0 → (2 : ℚ) ^ (-16 : Int) ≤ |f64Value v|)) ∧
  f64Value (l11dec 0x7BFF) = 33521664 ∧ f64Value (l11dec 0x7C00) = -33554432 ∧
  f64Value (l11dec 0x8001) = (2 : ℚ) ^ (-16 : Int) ∧ f64Value (l11dec 0x87FF) = -(2 : ℚ) ^ (-16 : Int) ∧
  l11dec 0xF004 = l11dec 0xE808 ∧ l11dec 0xE808 = l11dec 0x0001 ∧ f64Value (l11dec 0x0001) = 1 ∧
  f64Value (l11dec 0xF032) = 25 / 2 ∧
  (∀ w : Word, (encode (.l11dec w)).1 = .opsel ∧ (encode (.l11dec w)).2.head? = some 0x10)

/-- R85: VMEXP (OPSEL 0x16) completes in every state and gives the sign-extended low 5 bits, whatever bits 15:5 are. -/
def Obligations.VoutModeExponent : Prop :=
  (∀ (s : State) (vm : Word), ∃ n : Int,
    exec (.vmexp vm) s = .next { s with delivered := ⟨s.issuer, .exponent n⟩ :: s.delivered, draws := s.draws + 1 } ∧
    n = sext (vm.extractLsb' 0 5) ∧ -16 ≤ n ∧ n ≤ 15) ∧
  vmexp 0x0000 = 0 ∧ vmexp 0x000F = 15 ∧ vmexp 0x0010 = -16 ∧ vmexp 0x001F = -1 ∧ vmexp 0x0037 = -9 ∧
  vmexp 0xFF17 = -9 ∧ vmexp 0x0017 = -9 ∧
  (∀ vm : Word, (encode (.vmexp vm)).1 = .opsel ∧ (encode (.vmexp vm)).2.head? = some 0x16)

/-- R86: L16DEC (OPSEL 0x12) completes in every state and gives the unsigned word times two to the exponent, exactly. -/
def Obligations.LinearSixteenDecode : Prop :=
  (∀ (s : State) (w vm : Word), ∃ v : F64,
    exec (.l16dec w vm) s = .next { s with delivered := ⟨s.issuer, .value v⟩ :: s.delivered, draws := s.draws + 1 } ∧
    f64Finite v = true ∧
    f64Value v = (w.toNat : ℚ) * (2 : ℚ) ^ sext (vm.extractLsb' 0 5) ∧
    (w = 0 → v = 0) ∧ f64Value v ≤ 2147450880 ∧ 0 ≤ f64Value v ∧
    (v ≠ 0 → (2 : ℚ) ^ (-16 : Int) ≤ f64Value v)) ∧
  f64Value (l16dec 0xFFFF 0x000F) = 2147450880 ∧ f64Value (l16dec 0x0001 0x0010) = (2 : ℚ) ^ (-16 : Int) ∧
  (∀ vm : Word, f64Value (l16dec 0x8000 vm) = 32768 * (2 : ℚ) ^ sext (vm.extractLsb' 0 5)) ∧
  f64Value (l16dec 0x1A00 0x0017) = 13 ∧
  (∀ w vm : Word, (encode (.l16dec w vm)).1 = .opsel ∧ (encode (.l16dec w vm)).2.head? = some 0x12)

/-- R87: RAWNUM (OPSEL 0x17) completes in every state and gives the unsigned word, exactly; it agrees with L16DEC at exponent 0. -/
def Obligations.RawWordAsNumber : Prop :=
  (∀ (s : State) (w : Word), ∃ v : F64,
    exec (.rawnum w) s = .next { s with delivered := ⟨s.issuer, .value v⟩ :: s.delivered, draws := s.draws + 1 } ∧
    f64Finite v = true ∧ f64Value v = w.toNat ∧ v = l16dec w 0x0000) ∧
  rawnum 0x0000 = 0 ∧ f64Value (rawnum 0xFFFF) = 65535 ∧ f64Value (rawnum 0x8000) = 32768 ∧
  f64Value (rawnum 0x0842) = 2114 ∧
  (∀ w : Word, (encode (.rawnum w)).1 = .opsel ∧ (encode (.rawnum w)).2.head? = some 0x17)

/-- `round` of R83: m is an integer nearest to VAL × 4, and every VAL strictly between -256.125 and 255.875 is in range. With VAL × 4
halfway between q and q + 1, `even` takes the even one, `away` the one farther from zero, and with L11ENC_TIE left open it is
one of the two. -/
def Obligations.EncoderRounding : Prop :=
  (∀ (t : Tie) (d : Nat) (v : F64), f64Finite v = true →
     |(quarterRound t d v : ℚ) - 4 * f64Value v| ≤ 1 / 2 ∧
     (-(2049 : ℚ) / 8 < f64Value v → f64Value v < 2047 / 8 →
       -1024 ≤ quarterRound t d v ∧ quarterRound t d v ≤ 1023)) ∧
  (∀ (d : Nat) (v : F64) (q : Int), f64Finite v = true → 4 * f64Value v = (q : ℚ) + 1 / 2 →
     (quarterRound .even d v % 2 = 0 ∧ (quarterRound .even d v = q ∨ quarterRound .even d v = q + 1)) ∧
     quarterRound .away d v = (if 0 ≤ q then q + 1 else q) ∧
     (quarterRound .open_ d v = q ∨ quarterRound .open_ d v = q + 1))

/-- R84: for every VAL whose m is in [-1024, 1023] L11ENC completes, its word has exponent field -2, and decoding it gives m / 4,
within 0.125 of VAL (P-1, P-4; the bound is the spec's own derivation); a multiple of 0.25 comes back exactly (P-2), and these are
-256.0 to +255.75 (P-3). -/
def Obligations.EncoderRoundTrip : Prop :=
  ∀ (s : State) (v : F64), f64Finite v = true →
    -1024 ≤ quarterRound s.params.tie s.draws v → quarterRound s.params.tie s.draws v ≤ 1023 →
    ∃ w : Word,
      exec (.l11enc v) s =
        .next { s with delivered := ⟨s.issuer, .word w⟩ :: s.delivered, draws := s.draws + 1 } ∧
      w.extractLsb' 11 5 = 0b11110 ∧
      f64Value (l11dec w) = (quarterRound s.params.tie s.draws v : ℚ) / 4 ∧
      |f64Value (l11dec w) - f64Value v| ≤ 1 / 8 ∧
      -256 ≤ f64Value (l11dec w) ∧ f64Value (l11dec w) ≤ 1023 / 4 ∧
      ((∃ m : Int, f64Value v = (m : ℚ) / 4) → f64Value (l11dec w) = f64Value v)

/-- R83 outside the range: what each setting of L11ENC_OVERFLOW gives; NaN and the infinities are refused under every
setting (D20). -/
def Obligations.EncoderOutOfRange : Prop :=
  ∀ (s : State) (v : F64),
    (f64Finite v = false → exec (.l11enc v) s = .refused .notFinite) ∧
    (∀ m : Int, f64Finite v = true → quarterRound s.params.tie s.draws v = m → (m < -1024 ∨ 1023 < m) →
      (s.params.overflow = .refuse → exec (.l11enc v) s = .refused .mantissaOutOfRange) ∧
      (s.params.overflow = .wrap → ∃ w : Word,
        exec (.l11enc v) s =
          .next { s with delivered := ⟨s.issuer, .word w⟩ :: s.delivered, draws := s.draws + 1 } ∧
        w.extractLsb' 11 5 = 0b11110 ∧ ((w.extractLsb' 0 11).toNat : Int) = m % 2048) ∧
      (s.params.overflow = .saturate →
        exec (.l11enc v) s =
          .next { s with
            delivered := ⟨s.issuer, .word (if 1023 < m then 0xF3FF else 0xF400)⟩ :: s.delivered
            draws := s.draws + 1 }))

/-! ## The status, text and revision decoders -/

/-- R100: STSDEC (OPSEL 0x13) completes in every state; LIST has exactly the set bits, bit 15 first; NOFAULT iff the word is zero
iff LIST is empty; TEXTS is the table's. -/
def Obligations.StatusWordDecode : Prop :=
  (∀ (s : State) (w : Word), ∃ (list : List (Fin 16)) (nf : Bool) (texts : List String),
     exec (.stsdec w) s =
       .next { s with delivered := ⟨s.issuer, .status list nf texts⟩ :: s.delivered, draws := s.draws + 1 } ∧
     (∀ i : Fin 16, i ∈ list ↔ w.getLsbD i.val = true) ∧
     list.Pairwise (fun i j => j < i) ∧
     (nf = true ↔ w = 0) ∧ (nf = true ↔ list = []) ∧
     list.length = ((List.finRange 16).filter fun i => w.getLsbD i.val).length ∧
     texts = (if w = 0 then [s.params.noFaultText] else list.map fun i => s.params.statusTable[i]) ∧
     (w = 0x8000 → list = [15]) ∧
     (w = 0xFFFF → list = [15, 14, 13, 12, 11, 10, 9, 8, 7, 6, 5, 4, 3, 2, 1, 0])) ∧
  (∀ w : Word, (encode (.stsdec w)).1 = .opsel ∧ (encode (.stsdec w)).2.head? = some 0x13)

/-- R102: ASCDEC (OPSEL 0x14) completes on every non-empty block, in every state; it decodes min(declared, |B| - 1) bytes after
the prefix, each byte below 0x80 as the character with its code (a byte from 0x80 on gives a character nothing is said of); the
empty sequence is refused. -/
def Obligations.AsciiBlockDecode : Prop :=
  (∀ (s : State) (declared : Byte) (data : List Byte), ∃ text : List Char,
    exec (.ascdec (declared :: data)) s =
      .next { s with delivered := ⟨s.issuer, .text text⟩ :: s.delivered, draws := s.draws + 1 } ∧
    text.length = min declared.toNat data.length ∧
    ∀ i : Nat, i < text.length → (data.getD i 0).toNat < 0x80 →
      text[i]? = some (Char.ofNat (data.getD i 0).toNat)) ∧
  (∀ s : State, exec (.ascdec []) s = .refused .emptyBlock) ∧
  (∀ b : List Byte, (encode (.ascdec b)).1 = .opsel ∧ (encode (.ascdec b)).2.head? = some 0x14)

/-- R104: BCDREV (OPSEL 0x15) completes in every state; HIGH and LOW are the nibbles of the low byte, bits 15:8 are ignored, and
TEXT is the two in decimal with a full stop between. -/
def Obligations.RevisionDecode : Prop :=
  (∀ (s : State) (w : Word), ∃ (high low : BitVec 4) (text : List Char),
    exec (.bcdrev w) s =
      .next { s with delivered := ⟨s.issuer, .revision high low text⟩ :: s.delivered, draws := s.draws + 1 } ∧
    high.toNat = w.toNat / 16 % 16 ∧ low.toNat = w.toNat % 16 ∧
    text = (toString high.toNat).toList ++ '.' :: (toString low.toNat).toList) ∧
  revText 0x0000 = ['0', '.', '0'] ∧ revText 0xAB22 = ['2', '.', '2'] ∧
  revText 0x00FF = ['1', '5', '.', '1', '5'] ∧ revText 0x0022 = ['2', '.', '2'] ∧
  (∀ w : Word, (encode (.bcdrev w)).1 = .opsel ∧ (encode (.bcdrev w)).2.head? = some 0x15)

/-- R20, R88: a codec operation (and a word-format row) that answers changes nothing of the block but its result, and its result
depends on its operands and the parameters alone, so it is the same in any state of the SEQUENCER; the one exception is L11ENC with
L11ENC_TIE left open, whose free tie is drawn (R83, log 7). It is run at its agent's turn whatever the SEQUENCER is doing, unless
the operation in progress is the agent's own, whose result it then waits for (R10, R40). -/
def Obligations.CodecIsPure : Prop :=
  (∀ (i : Instr) (s : State), plan i = .codec →
     (∀ t : State, exec i s = .next t →
       ∃ r : Result, t = { s with delivered := ⟨s.issuer, r⟩ :: s.delivered, draws := s.draws + 1 } ∧
         ∀ s' : State, s'.params = s.params →
           s'.draws = s.draws ∨ s.params.tie ≠ .open_ ∨ (∀ v, i ≠ .l11enc v) →
           exec i s' = .next { s' with delivered := ⟨s'.issuer, r⟩ :: s'.delivered, draws := s'.draws + 1 }) ∧
     (∀ e : Refusal, exec i s = .refused e →
       ∀ s' : State, s'.params = s.params → s'.draws = s.draws ∨ s.params.tie ≠ .open_ ∨ (∀ v, i ≠ .l11enc v) →
         exec i s' = .refused e)) ∧
  (∀ (s : State) (h : Nat) (ts : List Turn) (f : Fmt) (bs : List Byte) (rest : List Pending) (i : Instr),
     s.turns = .host h :: ts → s.lock ≠ .held h → takeFirst h s.port = some (.request f bs, rest) →
     decode f bs = .ok i → plan i = .codec →
     step s = exec i { s with turns := ts, port := rest, issuer := h })

/-- R58 to R61, R63, R83: the word rows complete in every state and give the fields of their format; VOUT_COMMAND, which no
sequence touches (R180), gives its code and does nothing. That such a row has these as its result is the model's reading (log 19,
log 20). -/
def Obligations.WordFormatFields : Prop :=
  ∀ (s : State) (w : Word) (y : BitVec 11),
    (∃ n m : Int,
      exec (.l11Word w) s =
        .next { s with delivered := ⟨s.issuer, .l11Fields n m⟩ :: s.delivered, draws := s.draws + 1 } ∧
      -16 ≤ n ∧ n ≤ 15 ∧ -1024 ≤ m ∧ m ≤ 1023 ∧ (w.toNat : Int) = (n % 32) * 2048 + m % 2048) ∧
    (∃ m : Int,
      exec (.l11encResult y) s =
        .next { s with delivered := ⟨s.issuer, .l11Fields (-2) m⟩ :: s.delivered, draws := s.draws + 1 } ∧
      -1024 ≤ m ∧ m ≤ 1023 ∧ (y.toNat : Int) = m % 2048) ∧
    (∃ n : Int,
      exec (.voutModeWord w) s =
        .next { s with delivered := ⟨s.issuer, .exponent n⟩ :: s.delivered, draws := s.draws + 1 } ∧
      -16 ≤ n ∧ n ≤ 15 ∧ (w.toNat : Int) % 32 = n % 32) ∧
    exec (.l16Word w) s =
      .next { s with delivered := ⟨s.issuer, .mantissa w.toNat⟩ :: s.delivered, draws := s.draws + 1 } ∧
    (∃ (list : List (Fin 16)) (texts : List String),
      exec (.statusWordWord w) s =
        .next { s with delivered := ⟨s.issuer, .status list (decide (w = 0)) texts⟩ :: s.delivered, draws := s.draws + 1 } ∧
      (∀ i : Fin 16, i ∈ list ↔ w.getLsbD i.val = true) ∧
      texts = (if w = 0 then [s.params.noFaultText] else list.map fun i => s.params.statusTable[i])) ∧
    (∃ high low : BitVec 4,
      exec (.pmbusRevisionWord w) s =
        .next { s with delivered := ⟨s.issuer, .nibbles high low⟩ :: s.delivered, draws := s.draws + 1 } ∧
      high.toNat * 16 + low.toNat = w.toNat % 256) ∧
    exec .voutCommand s =
      .next { s with delivered := ⟨s.issuer, .code 0x21⟩ :: s.delivered, draws := s.draws + 1 }

/-! ## The framer -/

/-- R120, R121: the L_OUT bytes FRAMEW and FRAMER build, with the rules' examples. -/
def Obligations.ReportLayouts : Prop :=
  (∀ (p : Params) (a : Addr) (pay : List Byte), pay.length ≤ 60 →
     (frameW p a pay).length = p.lOut ∧
     (frameW p a pay)[0]? = some 0x00 ∧ (frameW p a pay)[1]? = some 0x57 ∧
     (∃ ab : Byte, (frameW p a pay)[2]? = some ab ∧ ab.toNat = 2 * a.toNat) ∧
     (frameW p a pay)[3]? = some (BitVec.ofNat 8 pay.length) ∧
     (∀ i : Nat, i < pay.length → (frameW p a pay)[4 + i]? = pay[i]?) ∧
     (∀ j : Nat, 4 + pay.length ≤ j → j < p.lOut → (frameW p a pay)[j]? = some p.fill)) ∧
  (∀ (p : Params) (a : Addr) (n : Byte),
     (frameR p a n).length = p.lOut ∧
     (frameR p a n)[0]? = some 0x00 ∧ (frameR p a n)[1]? = some 0x52 ∧
     (∃ ab : Byte, (frameR p a n)[2]? = some ab ∧ ab.toNat = 2 * a.toNat + 1) ∧
     (frameR p a n)[3]? = some n ∧
     (∀ j : Nat, 4 ≤ j → j < p.lOut → (frameR p a n)[j]? = some p.fill)) ∧
  frameW Config.defaults 0x40 [0x4F, 0x54, 0xF1] =
    [0x00, 0x57, 0x80, 0x03, 0x4F, 0x54, 0xF1] ++ List.replicate 57 0x00 ∧
  frameR Config.defaults 0x40 2 = [0x00, 0x52, 0x81, 0x02] ++ List.replicate 60 0x00

/-- R122: PARSEACK looks at the first byte alone. R123: PARSERD clamps the declared length to the bytes available. -/
def Obligations.ParseRules : Prop :=
  ((∀ r : List Byte, parseAck r = true ↔ 1 ≤ r.length ∧ r[0]? = some 0x01) ∧
   (∀ (b : Byte) (r r' : List Byte), parseAck (b :: r) = parseAck (b :: r')) ∧
   parseAck [] = false ∧ parseAck [0x01, 0x00] = true ∧ parseAck [0x00] = false ∧ parseAck [0x02] = false) ∧
  ((∀ r d : List Byte, parseRd r = some d ↔
     2 < r.length ∧ r[0]? = some 0x01 ∧
     ∃ dlen : Byte, r[1]? = some dlen ∧ d.length = min dlen.toNat (r.length - 2) ∧
       ∀ i : Nat, i < d.length → d[i]? = r[2 + i]?) ∧
   (∀ r : List Byte, parseRd r = none ↔ r.length ≤ 2 ∨ r[0]? ≠ some 0x01) ∧
   parseRd [0x01, 0x00] = none ∧ parseRd [0x01, 0x00, 0xAA] = some [] ∧
   parseRd [0x01, 0x05, 0xAA, 0xBB] = some [0xAA, 0xBB] ∧ parseRd [0x01, 0x01, 0xAA, 0xBB] = some [0xAA] ∧
   parseRd [0x01, 0x02, 0x00, 0x1A, 0x00] = some [0x00, 0x1A])

/-- R129: the five properties of the framer. -/
def Obligations.FramerProperties : Prop :=
  (∀ (p : Params) (a : Addr) (pay : List Byte), addrOk a = true → pay.length ≤ 60 →
    (frameW p a pay).getD 0 0xFF = 0x00 ∧ (frameW p a pay).getD 1 0 = 0x57 ∧
    ((frameW p a pay).getD 2 0).toNat % 2 = 0 ∧ 0x10 ≤ ((frameW p a pay).getD 2 0).toNat ∧
    ((frameW p a pay).getD 2 0).toNat ≤ 0xEE ∧ ((frameW p a pay).getD 3 0).toNat = pay.length ∧
    ((frameW p a pay).getD 2 0).toNat / 2 = a.toNat ∧
    ((frameW p a pay).drop 4).take ((frameW p a pay).getD 3 0).toNat = pay) ∧
  (∀ (p : Params) (a : Addr) (n : Byte), addrOk a = true → n.toNat ≤ 60 →
    (frameR p a n).getD 1 0 = 0x52 ∧ ((frameR p a n).getD 2 0).toNat % 2 = 1 ∧
    0x11 ≤ ((frameR p a n).getD 2 0).toNat ∧ ((frameR p a n).getD 2 0).toNat ≤ 0xEF) ∧
  (∀ (p : Params) (r d : List Byte), r.length ≤ p.lIn → parseRd r = some d →
    d.length ≤ r.length - 2 ∧ r.length - 2 ≤ p.lIn - 2 ∧ parseAck r = true)

/-- The write-report rows (R51, R57, R120) complete with the lock free: OUT holds the report's L_OUT bytes, and nothing else changes,
PAY neither (R15); no report goes to LINK. That such a row drives the FRAMER alone is the model's reading (log 17), and so is that it
does so for an address outside [0x08, 0x77] too (log 36). -/
def Obligations.WriteReportRows : Prop :=
  ∀ (s : State) (a : Addr) (pay : List Byte) (i : Instr), s.lock = .free → pay.length ≤ 60 →
    (i = .hidWrite a pay ∨ (i = .scanProbe a ∧ pay = []) ∨ (∃ c, i = .sendbyteReport a c ∧ pay = [c]) ∨
      (∃ c v, i = .writewordReport a c v ∧ pay = [c, v.extractLsb' 0 8, v.extractLsb' 8 8])) →
    ∃ t : State, exec i s = .next t ∧ t.outBytes = frameW s.params a pay ∧
      t = { s with
        out := t.out
        delivered := ⟨s.issuer, .frame (some (frameW s.params a pay))⟩ :: s.delivered
        draws := s.draws + 1 }

/-- The read-report rows (R52, R57, R121) complete with the lock free: OUT holds the report, and nothing else changes, RLEN neither
(R15); the model's reading (log 17), as is that any 7-bit address will do (log 36). -/
def Obligations.ReadReportRows : Prop :=
  ∀ (s : State) (a : Addr) (n : Byte) (i : Instr), s.lock = .free → n.toNat ≤ 60 →
    (i = .hidRead a n ∨ (i = .readwordReadphase a ∧ n = 2) ∨ (i = .blockreadReadphase a ∧ n = 33)) →
    ∃ t : State, exec i s = .next t ∧ t.outBytes = frameR s.params a n ∧
      t = { s with
        out := t.out
        delivered := ⟨s.issuer, .frame (some (frameR s.params a n))⟩ :: s.delivered
        draws := s.draws + 1 }

/-- The inbound-report row (R53, R122, R123) completes with the lock free: IN holds the report, at most L_IN bytes of it, and both
parses of it are the result. That such a row drives the FRAMER alone is the model's choice (log 17), and so is that a report
longer than L_IN is cut to its first L_IN bytes, in IN and in both parses (log 5): R53 and R126 only bound the length. -/
def Obligations.InboundReportRow : Prop :=
  ∀ (s : State) (r : List Byte), s.lock = .free →
    ∃ t : State, exec (.hidResp r) s = .next t ∧ t.inBytes = r.take s.params.lIn ∧
      t = { s with
        inb := t.inb
        inLen := min s.params.lIn r.length
        delivered := ⟨s.issuer, .parsed (parseAck (r.take s.params.lIn)) (parseRd (r.take s.params.lIn))⟩ :: s.delivered
        draws := s.draws + 1 }

/-- At the head of XWRITE and XREAD a payload or a read request over 60 bytes is a local failure (R66d, R124, R125, R194): CAUSE
PayloadTooLarge, a negative result, nothing built and nothing handed to LINK. That the rows HID.WRITE and HID.READ are decoded
with a LEN or RLEN over 60, so that a step runs them, and themselves set CAUSE PayloadTooLarge and build nothing, is the model's
choice (log 17): R120 gives FRAMEW no failure and R66 (d) puts the check in XWRITE and XREAD. So is that they do so for any 7-bit
address (log 36). -/
def Obligations.OverlongPayloadIsLocal : Prop :=
  (∀ (s : State) (a : Addr) (pay : List Byte), 60 < pay.length →
    xwrite a pay s = (false, { s with cause := .payloadTooLarge }) ∧
    (s.lock = .free → exec (.hidWrite a pay) s =
      .next { s with
        cause := .payloadTooLarge
        delivered := ⟨s.issuer, .frame none⟩ :: s.delivered
        draws := s.draws + 1 }) ∧
    (pay.length < 256 →
      decode .hidw ([0x00, 0x57, addrByteW a, BitVec.ofNat 8 pay.length] ++ pay) = .ok (.hidWrite a pay))) ∧
  (∀ (s : State) (a : Addr) (n : Byte), 60 < n.toNat →
    xread a n.toNat s = (none, { s with cause := .payloadTooLarge }) ∧
    (s.lock = .free → exec (.hidRead a n) s =
      .next { s with
        cause := .payloadTooLarge
        delivered := ⟨s.issuer, .frame none⟩ :: s.delivered
        draws := s.draws + 1 }) ∧
    decode .hidr [0x00, 0x52, addrByteR a, n] = .ok (.hidRead a n))

/-! ## The transport operations, whole -/

/-- SENDBYTE (R144), OPSEL 0x04, with the lock free completes. With a handle: one write exchange of [CMD]; OK iff the ack byte is
0x01; CAUSE as the exchange gives it; only the named latches and buffers change. Without one: OK false, CAUSE NotConnected, no
call. That the latches and buffers hold their last values after the operation, those it has not written too, is the model's choice
(log 15, log 38). A scripted report longer than L_IN counts as its first L_IN bytes (log 5). -/
def Obligations.SendbyteOutcome : Prop :=
  (∀ (s : State) (a : Addr) (c : Byte), s.lock = .free → s.connected = true → addrOk a = true →
     ∃ (x : Exchange) (t : State), x = exchangeW s.params a [c] s.link ∧ exec (.sendbyte a c) s = .next t ∧
       EndsIdle s t ∧ t.ok = decide (x.cause = .none) ∧ t.cause = x.cause ∧ t.link = x.link ∧
       t.delivered = ⟨s.issuer, .flag (decide (x.cause = .none))⟩ :: s.delivered ∧ t.draws = s.draws + 1 ∧
       t.op = .sendbyte ∧ t.addr = a ∧ t.cmd = c ∧ t.pay = [c] ∧ t.cont = .plain ∧
       t.outBytes = frameW s.params a [c] ∧
       (∀ r, x.received = some r → t.inBytes = r) ∧
       (x.received = none → t.inLen = s.inLen ∧ ∀ j, t.inb.readByte j = s.inb.readByte j) ∧
       t.handle = s.handle ∧ t.wdata = s.wdata ∧ t.rlen = s.rlen ∧ t.raw = s.raw ∧ t.bytes = s.bytes ∧
       t.found = s.found ∧ t.scanPtr = s.scanPtr) ∧
  (∀ (s : State) (a : Addr) (c : Byte), s.lock = .free → s.connected = false → addrOk a = true →
    ∃ t : State, exec (.sendbyte a c) s = .next t ∧ t.ok = false ∧ t.cause = .notConnected ∧ t.link = s.link ∧ t.handle = none) ∧
  (∀ (a : Addr) (c : Byte), (encode (.sendbyte a c)).1 = .opsel ∧ (encode (.sendbyte a c)).2.head? = some 0x04) ∧
  (frameW Config.defaults 0x40 [0x03]).take 6 = [0x00, 0x57, 0x80, 0x01, 0x03, 0x00]

/-- WRITEWORD (R146), OPSEL 0x06: the same with report payload [CMD, low byte, high byte]. That the latches and buffers hold their
last values after the operation is the model's choice (log 15, log 38). A scripted report longer than L_IN counts as its first
L_IN bytes (log 5). -/
def Obligations.WritewordOutcome : Prop :=
  (∀ (s : State) (a : Addr) (c : Byte) (v : Word), s.lock = .free → s.connected = true → addrOk a = true →
     ∃ (x : Exchange) (t : State),
       x = exchangeW s.params a [c, v.extractLsb' 0 8, v.extractLsb' 8 8] s.link ∧
       exec (.writeword a c v) s = .next t ∧
       EndsIdle s t ∧ t.ok = decide (x.cause = .none) ∧ t.cause = x.cause ∧ t.link = x.link ∧
       t.delivered = ⟨s.issuer, .flag (decide (x.cause = .none))⟩ :: s.delivered ∧ t.draws = s.draws + 1 ∧
       t.op = .writeword ∧ t.addr = a ∧ t.cmd = c ∧ t.wdata = v ∧
       t.pay = [c, v.extractLsb' 0 8, v.extractLsb' 8 8] ∧ t.cont = .plain ∧
       t.outBytes = frameW s.params a [c, v.extractLsb' 0 8, v.extractLsb' 8 8] ∧
       (∀ r, x.received = some r → t.inBytes = r) ∧
       (x.received = none → t.inLen = s.inLen ∧ ∀ j, t.inb.readByte j = s.inb.readByte j) ∧
       t.handle = s.handle ∧ t.rlen = s.rlen ∧ t.raw = s.raw ∧ t.bytes = s.bytes ∧ t.found = s.found ∧
       t.scanPtr = s.scanPtr) ∧
  (∀ (s : State) (a : Addr) (c : Byte) (v : Word), s.lock = .free → s.connected = false → addrOk a = true →
    ∃ t : State, exec (.writeword a c v) s = .next t ∧ t.ok = false ∧ t.cause = .notConnected ∧ t.link = s.link ∧ t.handle = none) ∧
  (∀ (a : Addr) (c : Byte) (v : Word), (encode (.writeword a c v)).1 = .opsel ∧ (encode (.writeword a c v)).2.head? = some 0x06) ∧
  (frameW Config.defaults 0x40 [0x01, 0x80, 0x00]).take 8 = [0x00, 0x57, 0x80, 0x03, 0x01, 0x80, 0x00, 0x00]

/-- READWORD (R145), OPSEL 0x05, with the lock free completes: a write exchange of [CMD], then, only if it succeeded, a read
exchange of 2 bytes; the first two data bytes little-endian, or none with the cause; fewer than two data bytes is a short read.
That the latches and buffers hold their last values after the operation is the model's choice (log 15, log 38). A scripted report
longer than L_IN counts as its first L_IN bytes (log 5). -/
def Obligations.ReadwordOutcome : Prop :=
  (∀ (s : State) (a : Addr) (c : Byte), s.lock = .free → s.connected = true → addrOk a = true →
     ∃ (x : Exchange) (t : State), x = exchangeWR s.params a c 2 s.link ∧ exec (.readword a c) s = .next t ∧
       EndsIdle s t ∧ t.link = x.link ∧
       (x.cause ≠ .none → t.raw = none ∧ t.cause = x.cause) ∧
       (x.cause = .none → x.data.length < 2 → t.raw = none ∧ t.cause = .shortOrMalformedResponse) ∧
       (∀ (d0 d1 : Byte) (rest : List Byte), x.cause = .none → x.data = d0 :: d1 :: rest →
         t.cause = .none ∧ ∃ w : Word, t.raw = some w ∧ w.toNat = d0.toNat + 256 * d1.toNat) ∧
       t.delivered = ⟨s.issuer, .raw t.raw⟩ :: s.delivered ∧ t.draws = s.draws + 1 ∧
       t.op = .readword ∧ t.addr = a ∧ t.cmd = c ∧ t.pay = [c] ∧ t.cont = .plain ∧
       (∀ r, x.received = some r → t.inBytes = r) ∧
       (x.received = none → t.inLen = s.inLen ∧ ∀ j, t.inb.readByte j = s.inb.readByte j) ∧
       ((exchangeW s.params a [c] s.link).cause = .none → t.outBytes = frameR s.params a 2 ∧ t.rlen = 2) ∧
       ((exchangeW s.params a [c] s.link).cause ≠ .none → t.outBytes = frameW s.params a [c] ∧ t.rlen = s.rlen) ∧
       t.handle = s.handle ∧ t.wdata = s.wdata ∧ t.ok = s.ok ∧ t.bytes = s.bytes ∧ t.found = s.found ∧
       t.scanPtr = s.scanPtr) ∧
  (∀ (s : State) (a : Addr) (c : Byte), s.lock = .free → s.connected = false → addrOk a = true →
    ∃ t : State, exec (.readword a c) s = .next t ∧ t.raw = none ∧ t.cause = .notConnected ∧ t.link = s.link ∧ t.handle = none) ∧
  (∀ (a : Addr) (c : Byte), (encode (.readword a c)).1 = .opsel ∧ (encode (.readword a c)).2.head? = some 0x05) ∧
  (frameR Config.defaults 0x40 2).take 5 = [0x00, 0x52, 0x81, 0x02, 0x00]

/-- BLOCKREAD (R147), OPSEL 0x07, with the lock free completes: a write exchange of [CMD], then, only if it succeeded, a read
exchange of 33 bytes; every parsed byte is returned, the empty sequence too; none with the cause of a failure. That the latches
and buffers hold their last values after the operation is the model's choice (log 15, log 38). A scripted report longer than L_IN
counts as its first L_IN bytes (log 5). -/
def Obligations.BlockreadOutcome : Prop :=
  (∀ (s : State) (a : Addr) (c : Byte), s.lock = .free → s.connected = true → addrOk a = true →
     ∃ (x : Exchange) (t : State), x = exchangeWR s.params a c 33 s.link ∧ exec (.blockread a c) s = .next t ∧
       EndsIdle s t ∧ t.link = x.link ∧ t.cause = x.cause ∧
       t.bytes = (if x.cause = .none then some x.data else none) ∧
       t.delivered = ⟨s.issuer, .bytes t.bytes⟩ :: s.delivered ∧ t.draws = s.draws + 1 ∧
       t.op = .blockread ∧ t.addr = a ∧ t.cmd = c ∧ t.pay = [c] ∧ t.cont = .plain ∧
       (∀ r, x.received = some r → t.inBytes = r) ∧
       (x.received = none → t.inLen = s.inLen ∧ ∀ j, t.inb.readByte j = s.inb.readByte j) ∧
       ((exchangeW s.params a [c] s.link).cause = .none → t.outBytes = frameR s.params a 33 ∧ t.rlen = 33) ∧
       ((exchangeW s.params a [c] s.link).cause ≠ .none → t.outBytes = frameW s.params a [c] ∧ t.rlen = s.rlen) ∧
       t.handle = s.handle ∧ t.wdata = s.wdata ∧ t.ok = s.ok ∧ t.raw = s.raw ∧ t.found = s.found ∧
       t.scanPtr = s.scanPtr) ∧
  (∀ (s : State) (a : Addr) (c : Byte), s.lock = .free → s.connected = false → addrOk a = true →
    ∃ t : State, exec (.blockread a c) s = .next t ∧ t.bytes = none ∧ t.cause = .notConnected ∧ t.link = s.link ∧ t.handle = none) ∧
  (∀ (a : Addr) (c : Byte), (encode (.blockread a c)).1 = .opsel ∧ (encode (.blockread a c)).2.head? = some 0x07) ∧
  (frameR Config.defaults 0x40 33).take 5 = [0x00, 0x52, 0x81, 0x21, 0x00]

/-- SCAN (R148) with a handle and the lock free completes: 112 probes in ascending order; FOUND is the addresses that answered
with the success ack, ascending, none outside [0x08, 0x77]; a completed scan has CAUSE None. That the latches and buffers hold
their last values after the operation is the model's choice (log 15, log 38). A scripted report longer than L_IN counts as its
first L_IN bytes (log 5). -/
def Obligations.ScanOutcome : Prop :=
  ∀ s : State, s.lock = .free → s.connected = true →
    ∃ t : State, exec .scan s = .next t ∧ EndsIdle s t ∧
      t.found = (probeAll s.params scanAddresses s.link).1 ∧ t.link = (probeAll s.params scanAddresses s.link).2 ∧
      t.found.Pairwise (· < ·) ∧ (∀ b ∈ t.found, addrOk b = true) ∧
      writeCount t.link.traffic = writeCount s.link.traffic + 112 ∧
      t.cause = .none ∧ t.scanPtr = 0x78 ∧
      t.delivered = ⟨s.issuer, .found t.found⟩ :: s.delivered ∧ t.draws = s.draws + 1 ∧
      t.op = .scan ∧ t.pay = [] ∧ t.cont = .plain ∧ t.outBytes = frameW s.params 0x77 [] ∧
      t.handle = s.handle ∧ t.addr = s.addr ∧ t.cmd = s.cmd ∧ t.wdata = s.wdata ∧ t.rlen = s.rlen ∧
      t.ok = s.ok ∧ t.raw = s.raw ∧ t.bytes = s.bytes

/-- CONNECT (R141) with the lock free. Without a handle it completes: OK and CONNECTED iff a device was found and opened, with
read timeout 300 ms; else CAUSE NotConnected. While connected, by CONNECT_WHEN_CONNECTED: refused; or OK <- true and nothing else;
or HidClose and the steps above. No report is sent, and the other latches and the buffers stay as they are, which between
operations is the model's choice (log 15, log 38). -/
def Obligations.ConnectOutcome : Prop :=
  (∀ s : State, s.lock = .free → s.connected = false →
    ∃ t : State, exec .connect s = .next t ∧ EndsIdle s t ∧ KeepsData s t ∧
      t.handle = (connectLink s.params s.link).1.map (fun d => ⟨d, 300⟩) ∧ t.link = (connectLink s.params s.link).2 ∧
      t.ok = (connectLink s.params s.link).1.isSome ∧
      t.cause = (if (connectLink s.params s.link).1.isSome then .none else .notConnected) ∧
      writeCount t.link.traffic = writeCount s.link.traffic ∧
      t.delivered = ⟨s.issuer, .flag t.ok⟩ :: s.delivered ∧ t.draws = s.draws + 1 ∧ t.op = .connect ∧
      t.cont = .plain) ∧
  (∀ s : State, s.lock = .free → s.connected = true → s.params.reconnect = .refuse →
    exec .connect s = .refused .alreadyConnected) ∧
  (∀ s : State, s.lock = .free → s.connected = true → s.params.reconnect = .noopTrue →
    ∃ t : State, exec .connect s = .next t ∧ EndsIdle s t ∧ KeepsData s t ∧ t.ok = true ∧ t.cause = .none ∧
      t.handle = s.handle ∧ t.link = s.link ∧
      t.delivered = ⟨s.issuer, .flag true⟩ :: s.delivered ∧ t.draws = s.draws + 1 ∧ t.op = .connect ∧
      t.cont = .plain) ∧
  (∀ s : State, s.lock = .free → s.connected = true → s.params.reconnect = .reopen →
    ∃ t : State, exec .connect s = .next t ∧ EndsIdle s t ∧ KeepsData s t ∧
      t.handle = (connectLink s.params s.link.close).1.map (fun d => ⟨d, 300⟩) ∧
      t.link = (connectLink s.params s.link.close).2 ∧ t.ok = (connectLink s.params s.link.close).1.isSome ∧
      t.cause = (if (connectLink s.params s.link.close).1.isSome then .none else .notConnected) ∧
      t.delivered = ⟨s.issuer, .flag t.ok⟩ :: s.delivered ∧ t.draws = s.draws + 1 ∧ t.op = .connect ∧
      t.cont = .plain)

/-- DISCONNECT (R142) with the lock free completes: no handle afterwards in every case, HidClose's answer swallowed; a second
DISCONNECT makes no call at all, and a READWORD after it has no result, CAUSE NotConnected and no call; no report is sent.
That the latches and buffers hold their last values after the operation is the model's choice (log 15, log 38). -/
def Obligations.DisconnectIsIdempotent : Prop :=
  ∀ s : State, s.lock = .free →
    ∃ t : State, exec .disconnect s = .next t ∧ EndsIdle s t ∧ KeepsData s t ∧ t.handle = none ∧
      t.link = (if s.connected then s.link.close else s.link) ∧
      writeCount t.link.traffic = writeCount s.link.traffic ∧ t.cause = .none ∧ t.ok = s.ok ∧
      t.delivered = ⟨s.issuer, .nothing⟩ :: s.delivered ∧ t.draws = s.draws + 1 ∧
      t.op = .disconnect ∧ t.cont = .plain ∧
      (∃ u : State, exec .disconnect t = .next u ∧ u.handle = none ∧ u.link = t.link) ∧
      (∃ u : State, exec (.readword 0x40 0x79) t = .next u ∧ u.raw = none ∧ u.cause = .notConnected ∧ u.link = t.link)

/-- ISCONN (R143) with the lock free completes: true iff there is a handle and LINK says it can be read and written; no report is
sent and no handle made or lost; false at reset.
That the latches and buffers hold their last values after the operation is the model's choice (log 15, log 38). -/
def Obligations.IsconnOutcome : Prop :=
  (∀ s : State, s.lock = .free →
    ∃ t : State, exec .isconn s = .next t ∧ EndsIdle s t ∧ KeepsData s t ∧
      t.ok = (s.connected && (s.link.nextReadable && s.link.nextWritable)) ∧ t.handle = s.handle ∧
      t.link.traffic = s.link.traffic ∧ t.cause = .none ∧
      t.delivered = ⟨s.issuer, .flag t.ok⟩ :: s.delivered ∧ t.draws = s.draws + 1 ∧
      t.op = .isconn ∧ t.cont = .plain) ∧
  ∃ t : State, exec .isconn State.reset = .next t ∧ t.ok = false

/-- Without a handle (R140, R191) the five device operations end at once with their negative result, CAUSE NotConnected, no call on
LINK, the lock free and PHASE IDLE; nothing else changes but their operand latches.
That the latches and buffers hold their last values after the operation is the model's choice (log 15, log 38). -/
def Obligations.NotConnectedIsLocal : Prop :=
  ∀ (s : State) (a : Addr) (c : Byte) (v : Word), s.lock = .free → s.connected = false → addrOk a = true →
    exec (.sendbyte a c) s = .next { s with
      op := .sendbyte, addr := a, cmd := c, ok := false, cause := .notConnected, phase := .idle, line := .idle
      settleTimer := none, readDeadline := none, cont := .plain, delivered := ⟨s.issuer, .flag false⟩ :: s.delivered
      draws := s.draws + 1 } ∧
    exec (.writeword a c v) s = .next { s with
      op := .writeword, addr := a, cmd := c, wdata := v, ok := false, cause := .notConnected, phase := .idle, line := .idle
      settleTimer := none, readDeadline := none, cont := .plain
      delivered := ⟨s.issuer, .flag false⟩ :: s.delivered, draws := s.draws + 1 } ∧
    exec (.readword a c) s = .next { s with
      op := .readword, addr := a, cmd := c, raw := none, cause := .notConnected, phase := .idle, line := .idle
      settleTimer := none, readDeadline := none, cont := .plain, delivered := ⟨s.issuer, .raw none⟩ :: s.delivered
      draws := s.draws + 1 } ∧
    exec (.blockread a c) s = .next { s with
      op := .blockread, addr := a, cmd := c, bytes := none, cause := .notConnected, phase := .idle, line := .idle
      settleTimer := none, readDeadline := none, cont := .plain
      delivered := ⟨s.issuer, .bytes none⟩ :: s.delivered, draws := s.draws + 1 } ∧
    exec .scan s = .next { s with
      op := .scan, found := [], cause := .notConnected, phase := .idle, line := .idle
      settleTimer := none, readDeadline := none, cont := .plain
      delivered := ⟨s.issuer, .found []⟩ :: s.delivered, draws := s.draws + 1 }

/-- An address operand outside [0x08, 0x77] is refused before Acquire, whatever the state (R31), by the device operations and by
every sequence of the catalogue that takes one. -/
def Obligations.ReservedAddressRefused : Prop :=
  ∀ (s : State) (a : Addr) (c : Byte) (v : Word) (acc : LimitAccess), a.toNat < 0x08 ∨ 0x77 < a.toNat →
    ∀ i ∈ [Instr.sendbyte a c, .readword a c, .writeword a c v, .blockread a c, .operation a, .clearFaults a,
        .voutMode a, .voutOvFaultLimit a acc, .ioutOcFaultLimit a acc, .otFaultLimit a acc, .statusWord a, .readVin a,
        .readVout a, .readIout a, .readTemperature1 a, .pmbusRevision a, .mfrId a, .mfrModel a, .mfrRevision a,
        .mfrSerial a],
      exec i s = .refused (.addressOutOfRange a)

/-- OPSEL 0x08 to 0x0F and 0x18 to 0x1F select nothing: refused in every state (R66a). -/
def Obligations.ReservedOpselRefused : Prop :=
  ∀ (s : State) (k : BitVec 3),
    (∃ o : Byte, o.toNat = 0x08 + k.toNat ∧ decode .opsel [o] = .ok (.reservedLow k) ∧
      exec (.reservedLow k) s = .refused (.reservedOpsel o)) ∧
    (∃ o : Byte, o.toNat = 0x18 + k.toNat ∧ decode .opsel [o] = .ok (.reservedHigh k) ∧
      exec (.reservedHigh k) s = .refused (.reservedOpsel o))

/-! ## The catalogue's sequences -/

/-- RD_L11 (R171) for its six registers: READWORD, then L11DEC of its word; no word, no result. The raw word is kept beside the
value (R179). With the rule's example. -/
def Obligations.ReadLinearElevenRegisters : Prop :=
  (∀ (s : State) (a : Addr) (i : Instr) (c : Byte), s.lock = .free → addrOk a = true →
     (i, c) ∈ [(Instr.readVin a, 0x88#8), (.readIout a, 0x8C#8), (.readTemperature1 a, 0x8D#8),
       (.voutOvFaultLimit a .read, 0x40#8), (.ioutOcFaultLimit a .read, 0x46#8), (.otFaultLimit a .read, 0x4F#8)] →
     ∃ u : State, exec (.readword a c) s = .next u ∧
       (u.raw = none → exec i s =
         .next { u with cont := .l11, delivered := ⟨s.issuer, .noResult⟩ :: s.delivered }) ∧
       (∀ w : Word, u.raw = some w → exec i s =
         .next { u with cont := .l11, delivered := ⟨s.issuer, .reading w (l11dec w)⟩ :: s.delivered })) ∧
  l11dec 0xF154 = 0x4055400000000000

/-- RD_VOUT (R172): READWORD of VOUT_MODE, then READWORD of READ_VOUT, then L16DEC of the two; it ends at the first step with no
result. Run by `exec`, with no other agent's operation between the two (log 23). The VOUT_MODE row is its first read and VMEXP, the
model's reading of R64, R85 and R172 (log 20). -/
def Obligations.ReadVoutSequence : Prop :=
  (∀ (s : State) (a : Addr), s.lock = .free → addrOk a = true →
     ∃ u : State, exec (.readword a 0x20) s = .next u ∧
       (u.raw = none → exec (.readVout a) s =
         .next { u with cont := .vout a, delivered := ⟨s.issuer, .noResult⟩ :: s.delivered }) ∧
       (∀ vm : Word, u.raw = some vm → ∃ v : State,
         exec (.readword a 0x8B) { u with delivered := s.delivered, draws := s.draws } = .next v ∧
         (v.raw = none → exec (.readVout a) s =
           .next { v with cont := .l16 vm, delivered := ⟨s.issuer, .noResult⟩ :: s.delivered }) ∧
         (∀ w : Word, v.raw = some w → exec (.readVout a) s =
           .next { v with cont := .l16 vm, delivered := ⟨s.issuer, .reading w (l16dec w vm)⟩ :: s.delivered }))) ∧
  (∀ (s : State) (a : Addr), s.lock = .free → addrOk a = true →
    (∃ u : State, exec (.readword a 0x20) s = .next u ∧
      (u.raw = none → exec (.voutMode a) s =
        .next { u with cont := .mode, delivered := ⟨s.issuer, .noResult⟩ :: s.delivered }) ∧
      (∀ w : Word, u.raw = some w → exec (.voutMode a) s =
        .next { u with cont := .mode, delivered := ⟨s.issuer, .modeReading w (vmexp w)⟩ :: s.delivered })))

/-- RD_STATUS (R174) and RD_REV (R175): READWORD of the register, then its decoders; no word, no result. With the rules' examples. -/
def Obligations.ReadStatusAndRevision : Prop :=
  ∀ (s : State) (a : Addr), s.lock = .free → addrOk a = true →
    (∃ u : State, exec (.readword a 0x79) s = .next u ∧
      (u.raw = none → exec (.statusWord a) s =
        .next { u with cont := .status, delivered := ⟨s.issuer, .noResult⟩ :: s.delivered }) ∧
      (∀ w : Word, u.raw = some w → ∃ (list : List (Fin 16)) (nf : Bool) (texts : List String),
        stsdec s.params w = .status list nf texts ∧ exec (.statusWord a) s =
          .next { u with
            cont := .status
            delivered := ⟨s.issuer, .statusReading w (rawnum w) list nf texts⟩ :: s.delivered })) ∧
    (∃ u : State, exec (.readword a 0x98) s = .next u ∧
      (u.raw = none → exec (.pmbusRevision a) s =
        .next { u with cont := .rev, delivered := ⟨s.issuer, .noResult⟩ :: s.delivered }) ∧
      (∀ w : Word, u.raw = some w → exec (.pmbusRevision a) s =
        .next { u with cont := .rev, delivered := ⟨s.issuer, .revReading w (revText w)⟩ :: s.delivered })) ∧
    rawnum 0x0842 = 0x40A0840000000000 ∧ statusList 0x0842 = [11, 6, 1] ∧ revText 0x0022 = ['2', '.', '2']

/-- RD_STR (R176) for the four manufacturer strings: BLOCKREAD, then ASCDEC of its bytes; no bytes, or the empty sequence that ASCDEC
refuses, no result. -/
def Obligations.ReadStringRegisters : Prop :=
  ∀ (s : State) (a : Addr) (i : Instr) (c : Byte), s.lock = .free → addrOk a = true →
    (i, c) ∈ [(Instr.mfrId a, 0x99#8), (.mfrModel a, 0x9A#8), (.mfrRevision a, 0x9B#8), (.mfrSerial a, 0x9E#8)] →
    ∃ u : State, exec (.blockread a c) s = .next u ∧
      (u.bytes = none ∨ u.bytes = some [] → exec i s =
        .next { u with cont := .str, delivered := ⟨s.issuer, .noResult⟩ :: s.delivered }) ∧
      (∀ (declared : Byte) (data : List Byte), u.bytes = some (declared :: data) → ∃ text : List Char,
        ascdec (declared :: data) = some text ∧ exec i s =
          .next { u with cont := .str, delivered := ⟨s.issuer, .text text⟩ :: s.delivered })

/-- WR_LIMIT (R173) for its three registers: L11ENC, then WRITEWORD of its word; on an input L11ENC refuses nothing is sent and the
sequence ends with no result (log 22). -/
def Obligations.WriteLimitRegisters : Prop :=
  ∀ (s : State) (a : Addr) (v : F64) (i : Instr) (c : Byte), s.lock = .free → addrOk a = true →
    (i, c) ∈ [(Instr.voutOvFaultLimit a (.write v), 0x40#8), (.ioutOcFaultLimit a (.write v), 0x46#8),
      (.otFaultLimit a (.write v), 0x4F#8)] →
    (stops (exec (.l11enc v) s) = true → exec i s =
      .next { s with delivered := ⟨s.issuer, .noResult⟩ :: s.delivered, draws := s.draws + 1 }) ∧
    (∀ (e : State) (w : Word), exec (.l11enc v) s = .next e →
      e.delivered = ⟨s.issuer, .word w⟩ :: s.delivered →
      ∃ t : State, exec (.writeword a c w) { s with draws := s.draws + 1 } = .next t ∧ exec i s = .next t)

/-- CLRFLT (R177) is SENDBYTE of 0x03 and OPER_ON (R178) is WRITEWORD of 0x01 with 0x0080, and each completes. -/
def Obligations.ClearFaultsAndTurnOn : Prop :=
  ∀ (s : State) (a : Addr), s.lock = .free → addrOk a = true →
    (∃ t : State, exec (.clearFaults a) s = .next t ∧ exec (.sendbyte a 0x03) s = .next t ∧ t.op = .sendbyte ∧
      t.addr = a ∧ t.cmd = 0x03) ∧
    (∃ t : State, exec (.operation a) s = .next t ∧ exec (.writeword a 0x01 0x0080) s = .next t ∧
      t.op = .writeword ∧ t.addr = a ∧ t.cmd = 0x01 ∧ t.wdata = 0x0080)

/-! ## Whole-machine rules -/

/-- R25: what reset leaves: no handle (and so no read timeout), LOCK free, PHASE IDLE, no timer running. R220: the block then waits
in IDLE, a step with nothing asked for changes nothing. -/
def Obligations.ResetState : Prop :=
  (State.reset.connected = false ∧ State.reset.handle = none ∧ State.reset.lock = .free ∧
   State.reset.phase = .idle ∧ State.reset.settleTimer = none ∧ State.reset.readDeadline = none) ∧
  step State.reset = .next State.reset

/-- The defaults of R5 at reset and the bound no L_OUT or L_IN can break, the default table of R61 bit by bit with the text of the
all-zero word, and the codes of the causes (R190). -/
def Obligations.DefaultsAndCodes : Prop :=
  (State.reset.params.lOut = 64 ∧ State.reset.params.lIn = 64 ∧ State.reset.params.fill = 0x00 ∧
   State.reset.params.overflow = .refuse ∧ State.reset.params.reconnect = .refuse ∧
   ∀ p : Params, 64 ≤ p.lOut ∧ 64 ≤ p.lIn) ∧
  (State.reset.params.statusTable.toList =
     ["off-condition", "busy", "other memory/logic fault", "CML fault", "temperature fault/warning",
      "VIN undervoltage", "IOUT overcurrent", "VOUT overvoltage", "unknown fault", "other fault", "fan fault",
      "POWER_GOOD negated", "MFR-specific", "VIN/UV fault", "IOUT/OC fault", "VOUT fault"] ∧
   State.reset.params.noFaultText = "no faults") ∧
  (Cause.none.code = 0 ∧ Cause.notConnected.code = 1 ∧ Cause.timeout.code = 2 ∧
   Cause.shortOrMalformedResponse.code = 3 ∧ Cause.payloadTooLarge.code = 4 ∧ Cause.linkError.code = 5)

/-- With no interleaving given and nothing in progress, a step runs the decoded instruction of the oldest request; and a word placed
by `withFetchWord` is run as decoded. -/
def Obligations.StepRunsDecoded : Prop :=
  (∀ (s : State) (h : Nat) (f : Fmt) (bs : List Byte) (rest : List Pending) (i : Instr),
    s.turns = [] → s.phase = .idle → s.lock = .free → s.port = ⟨h, .request f bs⟩ :: rest → decode f bs = .ok i →
    step s = exec i { s with port := rest, issuer := h }) ∧
  (∀ (s : State) (nbits w : Nat) (i : Instr), decodeTableWord nbits w = some i →
    step (s.withFetchWord nbits w) = exec i { s with turns := [], phase := .idle, line := .idle, lock := .free, issuer := 0 })

/-- R41: while the lock is held, an instruction that needs it has no effect, and an agent whose request needs it takes no step: only
its turn is used up. R10, R40: while an agent's own operation is in progress it waits for the result and takes no step, whatever it
asks for next. The spec gives the lock to the eight transport operations; that a report row waits for it (log 17), and a WR_LIMIT
too whose value L11ENC refuses, so that nothing would be sent (R173; log 37), is the model's choice. -/
def Obligations.LockedOutAgentWaits : Prop :=
  (∀ (i : Instr) (s : State), s.lock ≠ .free → i.wellFormed = true → plan i ≠ .codec → exec i s = .next s) ∧
  (∀ (s : State) (h : Nat) (ts : List Turn), s.turns = .host h :: ts → s.lock ≠ .free →
     (∀ (f : Fmt) (bs : List Byte) (rest : List Pending) (i : Instr),
       takeFirst h s.port = some (.request f bs, rest) → decode f bs = .ok i → i.wellFormed = true →
       plan i ≠ .codec → step s = .next { s with turns := ts }) ∧
     (∀ (c : Call) (k : Cont) (rest : List Pending), takeFirst h s.port = some (.call c k, rest) →
       step s = .next { s with turns := ts })) ∧
  (∀ (s : State) (h : Nat) (ts : List Turn), s.turns = .host h :: ts → s.lock = .held h →
    step s = .next { s with turns := ts })

/-- R140, R41: with the lock free, an agent's turn that begins an operation, be it an instruction, a sequence's next operation or
WR_LIMIT with a value L11ENC encodes, takes the lock, with PHASE CHECK, and no more. The SEQUENCER's next step latches the
operands, and the one after it sets CAUSE None and comes to the connected test; no call on LINK is made yet. WR_LIMIT with a value
L11ENC refuses ends there with no result and takes no lock. The grain of these steps is the model's inference (log 35, DEDUCED):
R140 has PHASE <- CHECK and the latching in one line and R14 describes CHECK with the operands latched, while the model takes
Acquire and PHASE <- CHECK together (I-2) and latches by the next step. So is what its agent does with a result (log 23, log 22), and
that other latches keep their values (log 15, log 38). -/
def Obligations.PrologueTakesLock : Prop :=
  (∀ (s : State) (h : Nat) (ts : List Turn) (c : Call) (k : Cont) (rest : List Pending) (d : Nat),
    s.turns = .host h :: ts → s.lock = .free → TurnBegins s h c k rest d → callOk c = true →
    refusesReconnect c s = false →
    ∃ t u : State, step s = .next t ∧ seqStep t = .next u ∧
      seqStep u = .next { u with cause := .none, line := .connectedTest } ∧
      t = { s with
        lock := .held h, phase := .check, line := .latch c, cont := k, issuer := h, port := rest, turns := ts
        draws := d } ∧
      u = { t with line := .clearCause, op := c.op, addr := u.addr, cmd := u.cmd, wdata := u.wdata } ∧
      (∀ a b, c = .sendbyte a b ∨ c = .readword a b ∨ c = .blockread a b →
        u.addr = a ∧ u.cmd = b ∧ u.wdata = s.wdata) ∧
      (∀ a b v, c = .writeword a b v → u.addr = a ∧ u.cmd = b ∧ u.wdata = v) ∧
      (c = .connect ∨ c = .disconnect ∨ c = .isconn ∨ c = .scan →
        u.addr = s.addr ∧ u.cmd = s.cmd ∧ u.wdata = s.wdata)) ∧
  (∀ (s : State) (h : Nat) (ts : List Turn) (f : Fmt) (bs : List Byte) (rest : List Pending) (i : Instr) (a : Addr)
    (c : Byte) (v : F64),
    s.turns = .host h :: ts → s.lock = .free → takeFirst h s.port = some (.request f bs, rest) →
    decode f bs = .ok i → plan i = .limitWrite a c v → addrOk a = true →
    (∀ w, l11enc s.params s.draws v ≠ .word w) →
    step s = .next { s with
      turns := ts, port := rest, issuer := h, delivered := ⟨h, .noResult⟩ :: s.delivered, draws := s.draws + 1 })

/-- R36, R224, T-3: while an operation is in progress, another turn of a HOST agent leaves the SEQUENCER, the handle, the buffers and
LINK as they are. -/
def Obligations.OperationIsNotDisturbed : Prop :=
  ∀ (s t : State) (h : Nat) (ts : List Turn), s.turns = .host h :: ts → s.lock ≠ .free → step s = .next t →
    SameBlock s t

/-- R149: a step of the SEQUENCER leaves PHASE or moves it along the fixed arrows; the operands change at the latching alone, and the
lock, with the results delivered, at the release alone (L-2). -/
def Obligations.PhaseFollowsArrows : Prop :=
  ∀ s t : State, seqStep s = .next t →
    phaseArrow s.phase t.phase = true ∧
    ((∀ c, s.line ≠ .latch c) → t.op = s.op ∧ t.addr = s.addr ∧ t.cmd = s.cmd ∧ t.wdata = s.wdata) ∧
    (s.phase ≠ .done → t.lock = s.lock ∧ t.delivered = s.delivered ∧ t.port = s.port)

/-- R145, R147, R223: when the write phase of a read is answered, no report is sent: with the success ack the settle timer starts and
the wait is the next line; without it the operation is done with no result. The wait is a step of its own, which ends the timer and
makes no call, and the read report is sent by the step after it. -/
def Obligations.SettleComesBetween : Prop :=
  ∀ s : State, readsData s.op = true →
    (s.phase = .wSent → s.line = .ackCmd → ∃ t : State, seqStep s = .next t ∧
      t.link = s.link.hidRead s.params.lIn ∧
      ((∃ r, s.link.nextRead s.params.lIn = .report r ∧ r.head? = some 0x01) →
        t.phase = .settle ∧ t.line = .wait ∧ t.settleTimer = some 20) ∧
      ((¬ ∃ r, s.link.nextRead s.params.lIn = .report r ∧ r.head? = some 0x01) → t.phase = .done ∧
        t.line = .release ∧ (s.op = .readword → t.raw = none) ∧ (s.op = .blockread → t.bytes = none))) ∧
    (s.phase = .settle → s.line = .wait → seqStep s = .next { s with settleTimer := none, line := .sendRead }) ∧
    (s.phase = .settle → s.line = .sendRead → ∃ t : State, seqStep s = .next t ∧
      t.link = s.link.hidWrite (frameR s.params s.addr (if s.op = .readword then 2 else 33)))

/-- R36, R149: the SEQUENCER's steps from Acquire on, with nobody else acting, come to exactly what the whole operation does in one
step. READ_VOUT (R172, R170): its VOUT_MODE read is one such operation; without a word the sequence ends there, with one the lock is
free and the READ_VOUT read stands at the head of the port for the same agent (log 23), and run next it ends as the whole sequence
does. -/
def Obligations.SequencerRefinesWhole : Prop :=
  ∀ (s : State) (c : Call) (k : Cont), s.lock = .free → callOk c = true → refusesReconnect c s = false →
    beginCall c k s = .next (takeLock c k s) ∧
    runCall c k s = .next (performCall c k s) ∧
    ((∀ a, k ≠ .vout a) → runToIdle longestRun (takeLock c k s) = .next (performCall c k s)) ∧
    (∀ a, k = .vout a →
      ((operate c k s).raw = none → runToIdle longestRun (takeLock c k s) = .next (performCall c k s)) ∧
      (∀ vm, (operate c k s).raw = some vm →
        ∃ u : State, runToIdle longestRun (takeLock c k s) = .next u ∧
          u = { operate c k s with port := ⟨s.issuer, .call (.readword a 0x8B) (.l16 vm)⟩ :: s.port } ∧
          u.lock = .free ∧
          (s.turns = [] → addrOk a = true → step u = .next (performCall c k s))))

/-- R149c, R151: an operation in progress, left alone, ends: within `longestRun` steps of the SEQUENCER PHASE is IDLE and the lock
free. It leans on every call on LINK answering, HidWrite too, which the spec assumes without a bound (R126, R201, U10) and the
model chooses (log 4, unsafe). -/
def Obligations.OperationEnds : Prop :=
  ∀ s : State, Inv s → s.phase ≠ .idle →
    ∃ t : State, runToIdle longestRun s = .next t ∧ t.phase = .idle ∧ t.lock = .free

/-- The invariant holds at reset (R25, R27). Of what R25 leaves unspecified it leans on the model's own reset values: PAY empty
and RLEN 0 (log 11), FOUND empty (log 12), the buffers empty (log 13); and on the line at reset, idle (log 35). -/
def Obligations.InvariantAtReset : Prop :=
  Inv State.reset

/-- Every step keeps the invariant (R12 to R19, R23, R27 and the traffic rules R129, R153): one handle with its timeout, lock free
iff IDLE, the line one of the operation and of PHASE (log 35), reports only to valid addresses with a handle, HidWrite and HidRead
alternating, FOUND ascending and in range, buffers canonical. -/
def Obligations.EveryStepKeepsInvariant : Prop :=
  ∀ s t : State, Inv s → step s = .next t → Inv t

/-- In a state with the invariant no step faults: the line is always one of the operation and of PHASE (log 32). -/
def Obligations.NoFaultWithInvariant : Prop :=
  ∀ (s : State) (f : Fault), Inv s → step s ≠ .fault f

/-- R41 L-4: from the lock free, every instruction that answers leaves the lock free and PHASE as it was or IDLE. -/
def Obligations.LockNeverLeftHeld : Prop :=
  ∀ (i : Instr) (s t : State), s.lock = .free → exec i s = .next t →
    t.lock = .free ∧ (t.phase = .idle ∨ t.phase = s.phase)

/-- R12, R191, R197: only CONNECT and DISCONNECT make or end the handle, no failure does. R19: no step writes a parameter. R207,
R128: a codec operation, a word row or a report row makes no call on LINK. -/
def Obligations.WhoWritesWhat : Prop :=
  (∀ (i : Instr) (s t : State), i ≠ .connect → i ≠ .disconnect → exec i s = .next t → t.handle = s.handle) ∧
  (∀ s t : State, step s = .next t → t.params = s.params) ∧
  (∀ (i : Instr) (s t : State), plan i = .codec ∨ plan i = .framer → exec i s = .next t → t.link = s.link)

/-- R152: how many reports each operation hands to LINK. -/
def Obligations.ExchangesPerOperation : Prop :=
  ∀ (s t : State) (a : Addr) (c : Byte) (v : Word), s.lock = .free →
    (exec .connect s = .next t → writeCount t.link.traffic = writeCount s.link.traffic) ∧
    (exec .disconnect s = .next t → writeCount t.link.traffic = writeCount s.link.traffic) ∧
    (exec .isconn s = .next t → writeCount t.link.traffic = writeCount s.link.traffic) ∧
    (exec .scan s = .next t →
      writeCount t.link.traffic = writeCount s.link.traffic + (if s.connected then 112 else 0)) ∧
    (s.connected = true → exec (.sendbyte a c) s = .next t →
      writeCount t.link.traffic = writeCount s.link.traffic + 1) ∧
    (s.connected = true → exec (.writeword a c v) s = .next t →
      writeCount t.link.traffic = writeCount s.link.traffic + 1) ∧
    (s.connected = true → exec (.readword a c) s = .next t →
      writeCount t.link.traffic =
        writeCount s.link.traffic + (if (exchangeW s.params a [c] s.link).cause = .none then 2 else 1)) ∧
    (s.connected = true → exec (.blockread a c) s = .next t →
      writeCount t.link.traffic =
        writeCount s.link.traffic + (if (exchangeW s.params a [c] s.link).cause = .none then 2 else 1))

/-- The buffers (log 13): reading a byte gives what was last written there, every other byte is unchanged, every write keeps the
canonical form, and two canonical buffers that read the same at every index are the same data. -/
def Obligations.BufferLaws : Prop :=
  (∀ (m : Memory) (i : Nat) (b : Byte) (bs : List Byte), m.wf = true →
     (m.writeByte i b).wf = true ∧ (m.writeByte i b).readByte i = b ∧
     (∀ j, j ≠ i → (m.writeByte i b).readByte j = m.readByte j) ∧
     (m.storeBytes i bs).wf = true ∧ (m.storeBytes i bs).loadBytes i bs.length = bs ∧
     (∀ j, j < i ∨ i + bs.length ≤ j → (m.storeBytes i bs).readByte j = m.readByte j)) ∧
  (∀ m m' : Memory, m.wf = true → m'.wf = true → (∀ j, m.readByte j = m'.readByte j) → m = m')

/-- R10: a step of the SEQUENCER is one pseudocode line, an exchange being two, so it makes at most one call on LINK, and it hands
over a report or asks for one only at the lines that do so. -/
def Obligations.AtMostOneCallPerStep : Prop :=
  ∀ s t : State, seqStep s = .next t →
    t.link.traffic = s.link.traffic ∨
    ∃ c : LinkCall, t.link.traffic = c :: s.link.traffic ∧
      (∀ buf ans, c = .write buf ans →
        s.line = .sendOk ∨ s.line = .sendCmd ∨ s.line = .sendRead ∨ s.line = .probe) ∧
      (∀ ans, c = .read ans → awaiting s.line = true)
end

