-- ==== Sys2Proof/Laws/Memory.lean ====
section
/-! SUPPORT. The laws of the buffers: a byte written is read back, no other byte changes, and every operation keeps the canonical
form. -/

namespace Sys2Proof.Machine

theorem wfFrom_mono {lo lo' : Nat} {m : Memory} (h : Memory.wfFrom lo m = true) (hl : lo' ≤ lo) :
    Memory.wfFrom lo' m = true := by
  cases m with
  | nil => rfl
  | cons p rest =>
    obtain ⟨i, b⟩ := p
    simp only [Memory.wfFrom, Bool.and_eq_true, decide_eq_true_eq] at h ⊢
    exact ⟨⟨le_trans hl h.1.1, h.1.2⟩, h.2⟩

/-- Below the first index of a canonical buffer every byte reads as an unlisted one. -/
theorem readByte_below {lo : Nat} {m : Memory} (h : Memory.wfFrom lo m = true) {i : Nat} (hi : i < lo) :
    m.readByte i = 0 := by
  induction m generalizing lo with
  | nil => rfl
  | cons p rest ih =>
    obtain ⟨j, b⟩ := p
    simp only [Memory.wfFrom, Bool.and_eq_true, decide_eq_true_eq] at h
    have hne : j ≠ i := by omega
    simp only [Memory.readByte, hne, if_false]
    exact ih h.2 (by omega)

theorem writeByte_wfFrom {lo : Nat} {m : Memory} (h : Memory.wfFrom lo m = true) {i : Nat} (hi : lo ≤ i) (b : Byte) :
    Memory.wfFrom lo (m.writeByte i b) = true := by
  induction m generalizing lo with
  | nil =>
    simp only [Memory.writeByte]
    split
    · rfl
    · rename_i hb
      simp only [Memory.wfFrom, Bool.and_eq_true, decide_eq_true_eq, bne_iff_ne, ne_eq]
      exact ⟨⟨hi, hb⟩, trivial⟩
  | cons p rest ih =>
    obtain ⟨j, c⟩ := p
    have h' := h
    simp only [Memory.wfFrom, Bool.and_eq_true, decide_eq_true_eq] at h'
    simp only [Memory.writeByte]
    split
    · split
      · exact h
      · rename_i hij hb
        simp only [Memory.wfFrom, Bool.and_eq_true, decide_eq_true_eq, bne_iff_ne, ne_eq]
        exact ⟨⟨hi, hb⟩, ⟨hij, bne_iff_ne.mp h'.1.2⟩, h'.2⟩
    · split
      · rename_i hij
        subst hij
        split
        · exact wfFrom_mono h'.2 (by omega)
        · rename_i hb
          simp only [Memory.wfFrom, Bool.and_eq_true, decide_eq_true_eq, bne_iff_ne, ne_eq]
          exact ⟨⟨hi, hb⟩, h'.2⟩
      · simp only [Memory.wfFrom, Bool.and_eq_true, decide_eq_true_eq]
        exact ⟨h'.1, ih h'.2 (by omega)⟩

/-- Writing a byte keeps the canonical form. -/
theorem writeByte_wf {m : Memory} (h : m.wf = true) (i : Nat) (b : Byte) : (m.writeByte i b).wf = true :=
  writeByte_wfFrom h (Nat.zero_le i) b

/-- Writing bytes keeps the canonical form. -/
theorem storeBytes_wf {m : Memory} (h : m.wf = true) (base : Nat) (bs : List Byte) :
    (m.storeBytes base bs).wf = true := by
  induction bs generalizing m base with
  | nil => exact h
  | cons b bs ih => exact ih (writeByte_wf h base b) (base + 1)

theorem readByte_writeByte_from {lo : Nat} {m : Memory} (h : Memory.wfFrom lo m = true) (i j : Nat) (b : Byte) :
    (m.writeByte i b).readByte j = if j = i then b else m.readByte j := by
  induction m generalizing lo with
  | nil =>
    simp only [Memory.writeByte]
    split
    · rename_i hb
      simp [Memory.readByte, hb]
    · simp only [Memory.readByte]
      split <;> split <;> simp_all
  | cons p rest ih =>
    obtain ⟨k, c⟩ := p
    simp only [Memory.wfFrom, Bool.and_eq_true, decide_eq_true_eq] at h
    have hbelow : ∀ {x : Nat}, x < k + 1 → Memory.readByte rest x = 0 := fun hx => readByte_below h.2 hx
    simp only [Memory.writeByte]
    split
    · rename_i hik
      split
      · rename_i hb
        subst hb
        by_cases hj : j = i
        · subst hj
          have hne : k ≠ j := by omega
          simp [Memory.readByte, hne, hbelow (by omega : j < k + 1)]
        · simp [hj]
      · by_cases hj : j = i
        · simp [Memory.readByte, hj]
        · have hne : i ≠ j := fun e => hj e.symm
          simp [Memory.readByte, hj, hne]
    · split
      · rename_i hik
        subst hik
        split
        · rename_i hb
          subst hb
          by_cases hj : j = i
          · subst hj
            simp [hbelow (by omega : j < j + 1)]
          · have hne : i ≠ j := fun e => hj e.symm
            simp [Memory.readByte, hj, hne]
        · by_cases hj : j = i
          · simp [Memory.readByte, hj]
          · have hne : i ≠ j := fun e => hj e.symm
            simp [Memory.readByte, hj, hne]
      · rename_i hlt hne
        simp only [Memory.readByte]
        rw [ih h.2]
        by_cases hj : j = i
        · subst hj
          have : k ≠ j := fun e => hne e.symm
          simp [this]
        · simp [hj]

/-- A byte written is read back; every other byte reads as before. -/
theorem readByte_writeByte {m : Memory} (h : m.wf = true) (i j : Nat) (b : Byte) :
    (m.writeByte i b).readByte j = if j = i then b else m.readByte j :=
  readByte_writeByte_from h i j b

/-- Bytes stored are read back at their indices; every other byte reads as before. -/
theorem readByte_storeBytes {m : Memory} (h : m.wf = true) (base : Nat) (bs : List Byte) (j : Nat) :
    (m.storeBytes base bs).readByte j =
      if base ≤ j ∧ j < base + bs.length then bs.getD (j - base) 0 else m.readByte j := by
  induction bs generalizing m base with
  | nil =>
    simp [Memory.storeBytes]
  | cons b bs ih =>
    simp only [Memory.storeBytes, List.length_cons]
    rw [ih (writeByte_wf h base b), readByte_writeByte h]
    by_cases h1 : j = base
    · subst h1
      simp
    · by_cases h2 : base + 1 ≤ j ∧ j < base + 1 + bs.length
      · have h3 : base ≤ j ∧ j < base + (bs.length + 1) := by omega
        have h4 : j - base = (j - (base + 1)) + 1 := by omega
        rw [if_pos h2, if_pos h3, h4, List.getD_cons_succ]
      · have h3 : ¬ (base ≤ j ∧ j < base + (bs.length + 1)) := by omega
        rw [if_neg h2, if_neg h3, if_neg h1]

/-- What is stored in a fresh buffer is what is loaded from it. -/
theorem loadBytes_storeBytes (bs : List Byte) :
    (Memory.storeBytes [] 0 bs).loadBytes 0 bs.length = bs := by
  apply List.ext_getElem
  · simp [Memory.loadBytes]
  · intro n h1 h2
    simp only [Memory.loadBytes, List.getElem_map, List.getElem_range, Nat.zero_add]
    rw [readByte_storeBytes (m := []) rfl]
    simp [h2]

/-- IN holds the report last put there. -/
@[simp] theorem inBytes_setIn (r : List Byte) (s : State) : (setIn r s).inBytes = r :=
  loadBytes_storeBytes r

/-- OUT holds the report last put there, when it has L_OUT bytes. -/
theorem outBytes_setOut (bs : List Byte) (s : State) (h : bs.length = s.params.lOut) : (setOut bs s).outBytes = bs := by
  have := loadBytes_storeBytes bs
  rw [h] at this
  exact this

theorem lOut_ge (p : Params) : 64 ≤ p.lOut := Nat.le_add_right 64 p.lOutExtra

/-- FRAMEW gives L_OUT bytes for a payload of at most MAX_PAYLOAD (R120). -/
theorem frameW_length (p : Params) (a : Addr) (pay : List Byte) (h : pay.length ≤ Config.maxPayload) :
    (frameW p a pay).length = p.lOut := by
  have := lOut_ge p
  simp only [Config.maxPayload] at h
  simp only [frameW, fillTo, List.length_append, List.length_cons, List.length_nil, List.length_replicate]
  omega

/-- FRAMER gives L_OUT bytes (R121). -/
theorem frameR_length (p : Params) (a : Addr) (n : Byte) : (frameR p a n).length = p.lOut := by
  have := lOut_ge p
  simp only [frameR, fillTo, List.length_append, List.length_cons, List.length_nil, List.length_replicate]
  omega

/-- The OUT handed to LINK after FRAMEW is FRAMEW's report. -/
theorem outBytes_frameW (a : Addr) (pay : List Byte) (s : State) (h : pay.length ≤ Config.maxPayload) :
    (setOut (frameW s.params a pay) s).outBytes = frameW s.params a pay :=
  outBytes_setOut _ s (frameW_length _ _ _ h)

/-- The OUT handed to LINK after FRAMER is FRAMER's report. -/
theorem outBytes_frameR (a : Addr) (n : Byte) (s : State) :
    (setOut (frameR s.params a n) s).outBytes = frameR s.params a n :=
  outBytes_setOut _ s (frameR_length _ _ _)

end Sys2Proof.Machine
end

