-- ==== Sys2Proof/Laws/State.lean ====
section
/-! SUPPORT. One lemma per field for each named update of State. -/

namespace Sys2Proof.Machine


/-! ### deliver -/

@[simp] theorem deliver_params (h : Nat) (r : Result) (s : State) : (deliver h r s).params = s.params := rfl
@[simp] theorem deliver_handle (h : Nat) (r : Result) (s : State) : (deliver h r s).handle = s.handle := rfl
@[simp] theorem deliver_lock (h : Nat) (r : Result) (s : State) : (deliver h r s).lock = s.lock := rfl
@[simp] theorem deliver_phase (h : Nat) (r : Result) (s : State) : (deliver h r s).phase = s.phase := rfl
@[simp] theorem deliver_line (h : Nat) (r : Result) (s : State) : (deliver h r s).line = s.line := rfl
@[simp] theorem deliver_op (h : Nat) (r : Result) (s : State) : (deliver h r s).op = s.op := rfl
@[simp] theorem deliver_addr (h : Nat) (r : Result) (s : State) : (deliver h r s).addr = s.addr := rfl
@[simp] theorem deliver_cmd (h : Nat) (r : Result) (s : State) : (deliver h r s).cmd = s.cmd := rfl
@[simp] theorem deliver_wdata (h : Nat) (r : Result) (s : State) : (deliver h r s).wdata = s.wdata := rfl
@[simp] theorem deliver_pay (h : Nat) (r : Result) (s : State) : (deliver h r s).pay = s.pay := rfl
@[simp] theorem deliver_rlen (h : Nat) (r : Result) (s : State) : (deliver h r s).rlen = s.rlen := rfl
@[simp] theorem deliver_ok (h : Nat) (r : Result) (s : State) : (deliver h r s).ok = s.ok := rfl
@[simp] theorem deliver_raw (h : Nat) (r : Result) (s : State) : (deliver h r s).raw = s.raw := rfl
@[simp] theorem deliver_bytes (h : Nat) (r : Result) (s : State) : (deliver h r s).bytes = s.bytes := rfl
@[simp] theorem deliver_found (h : Nat) (r : Result) (s : State) : (deliver h r s).found = s.found := rfl
@[simp] theorem deliver_cause (h : Nat) (r : Result) (s : State) : (deliver h r s).cause = s.cause := rfl
@[simp] theorem deliver_out (h : Nat) (r : Result) (s : State) : (deliver h r s).out = s.out := rfl
@[simp] theorem deliver_inb (h : Nat) (r : Result) (s : State) : (deliver h r s).inb = s.inb := rfl
@[simp] theorem deliver_inLen (h : Nat) (r : Result) (s : State) : (deliver h r s).inLen = s.inLen := rfl
@[simp] theorem deliver_scanPtr (h : Nat) (r : Result) (s : State) : (deliver h r s).scanPtr = s.scanPtr := rfl
@[simp] theorem deliver_settleTimer (h : Nat) (r : Result) (s : State) : (deliver h r s).settleTimer = s.settleTimer := rfl
@[simp] theorem deliver_readDeadline (h : Nat) (r : Result) (s : State) : (deliver h r s).readDeadline = s.readDeadline := rfl
@[simp] theorem deliver_link (h : Nat) (r : Result) (s : State) : (deliver h r s).link = s.link := rfl
@[simp] theorem deliver_port (h : Nat) (r : Result) (s : State) : (deliver h r s).port = s.port := rfl
@[simp] theorem deliver_issuer (h : Nat) (r : Result) (s : State) : (deliver h r s).issuer = s.issuer := rfl
@[simp] theorem deliver_turns (h : Nat) (r : Result) (s : State) : (deliver h r s).turns = s.turns := rfl
@[simp] theorem deliver_cont (h : Nat) (r : Result) (s : State) : (deliver h r s).cont = s.cont := rfl
@[simp] theorem deliver_delivered (h : Nat) (r : Result) (s : State) : (deliver h r s).delivered = ⟨h, r⟩ :: s.delivered := rfl
@[simp] theorem deliver_draws (h : Nat) (r : Result) (s : State) : (deliver h r s).draws = s.draws + 1 := rfl

/-! ### release -/

@[simp] theorem release_params (s : State) : (release s).params = s.params := rfl
@[simp] theorem release_handle (s : State) : (release s).handle = s.handle := rfl
@[simp] theorem release_lock (s : State) : (release s).lock = .free := rfl
@[simp] theorem release_phase (s : State) : (release s).phase = .idle := rfl
@[simp] theorem release_line (s : State) : (release s).line = .idle := rfl
@[simp] theorem release_op (s : State) : (release s).op = s.op := rfl
@[simp] theorem release_addr (s : State) : (release s).addr = s.addr := rfl
@[simp] theorem release_cmd (s : State) : (release s).cmd = s.cmd := rfl
@[simp] theorem release_wdata (s : State) : (release s).wdata = s.wdata := rfl
@[simp] theorem release_pay (s : State) : (release s).pay = s.pay := rfl
@[simp] theorem release_rlen (s : State) : (release s).rlen = s.rlen := rfl
@[simp] theorem release_ok (s : State) : (release s).ok = s.ok := rfl
@[simp] theorem release_raw (s : State) : (release s).raw = s.raw := rfl
@[simp] theorem release_bytes (s : State) : (release s).bytes = s.bytes := rfl
@[simp] theorem release_found (s : State) : (release s).found = s.found := rfl
@[simp] theorem release_cause (s : State) : (release s).cause = s.cause := rfl
@[simp] theorem release_out (s : State) : (release s).out = s.out := rfl
@[simp] theorem release_inb (s : State) : (release s).inb = s.inb := rfl
@[simp] theorem release_inLen (s : State) : (release s).inLen = s.inLen := rfl
@[simp] theorem release_scanPtr (s : State) : (release s).scanPtr = s.scanPtr := rfl
@[simp] theorem release_settleTimer (s : State) : (release s).settleTimer = none := rfl
@[simp] theorem release_readDeadline (s : State) : (release s).readDeadline = none := rfl
@[simp] theorem release_link (s : State) : (release s).link = s.link := rfl
@[simp] theorem release_port (s : State) : (release s).port = s.port := rfl
@[simp] theorem release_issuer (s : State) : (release s).issuer = s.issuer := rfl
@[simp] theorem release_turns (s : State) : (release s).turns = s.turns := rfl
@[simp] theorem release_cont (s : State) : (release s).cont = s.cont := rfl
@[simp] theorem release_delivered (s : State) : (release s).delivered = s.delivered := rfl
@[simp] theorem release_draws (s : State) : (release s).draws = s.draws := rfl

/-! ### setOut -/

@[simp] theorem setOut_params (bs : List Byte) (s : State) : (setOut bs s).params = s.params := rfl
@[simp] theorem setOut_handle (bs : List Byte) (s : State) : (setOut bs s).handle = s.handle := rfl
@[simp] theorem setOut_lock (bs : List Byte) (s : State) : (setOut bs s).lock = s.lock := rfl
@[simp] theorem setOut_phase (bs : List Byte) (s : State) : (setOut bs s).phase = s.phase := rfl
@[simp] theorem setOut_line (bs : List Byte) (s : State) : (setOut bs s).line = s.line := rfl
@[simp] theorem setOut_op (bs : List Byte) (s : State) : (setOut bs s).op = s.op := rfl
@[simp] theorem setOut_addr (bs : List Byte) (s : State) : (setOut bs s).addr = s.addr := rfl
@[simp] theorem setOut_cmd (bs : List Byte) (s : State) : (setOut bs s).cmd = s.cmd := rfl
@[simp] theorem setOut_wdata (bs : List Byte) (s : State) : (setOut bs s).wdata = s.wdata := rfl
@[simp] theorem setOut_pay (bs : List Byte) (s : State) : (setOut bs s).pay = s.pay := rfl
@[simp] theorem setOut_rlen (bs : List Byte) (s : State) : (setOut bs s).rlen = s.rlen := rfl
@[simp] theorem setOut_ok (bs : List Byte) (s : State) : (setOut bs s).ok = s.ok := rfl
@[simp] theorem setOut_raw (bs : List Byte) (s : State) : (setOut bs s).raw = s.raw := rfl
@[simp] theorem setOut_bytes (bs : List Byte) (s : State) : (setOut bs s).bytes = s.bytes := rfl
@[simp] theorem setOut_found (bs : List Byte) (s : State) : (setOut bs s).found = s.found := rfl
@[simp] theorem setOut_cause (bs : List Byte) (s : State) : (setOut bs s).cause = s.cause := rfl
@[simp] theorem setOut_out (bs : List Byte) (s : State) : (setOut bs s).out = Memory.storeBytes [] 0 bs := rfl
@[simp] theorem setOut_inb (bs : List Byte) (s : State) : (setOut bs s).inb = s.inb := rfl
@[simp] theorem setOut_inLen (bs : List Byte) (s : State) : (setOut bs s).inLen = s.inLen := rfl
@[simp] theorem setOut_scanPtr (bs : List Byte) (s : State) : (setOut bs s).scanPtr = s.scanPtr := rfl
@[simp] theorem setOut_settleTimer (bs : List Byte) (s : State) : (setOut bs s).settleTimer = s.settleTimer := rfl
@[simp] theorem setOut_readDeadline (bs : List Byte) (s : State) : (setOut bs s).readDeadline = s.readDeadline := rfl
@[simp] theorem setOut_link (bs : List Byte) (s : State) : (setOut bs s).link = s.link := rfl
@[simp] theorem setOut_port (bs : List Byte) (s : State) : (setOut bs s).port = s.port := rfl
@[simp] theorem setOut_issuer (bs : List Byte) (s : State) : (setOut bs s).issuer = s.issuer := rfl
@[simp] theorem setOut_turns (bs : List Byte) (s : State) : (setOut bs s).turns = s.turns := rfl
@[simp] theorem setOut_cont (bs : List Byte) (s : State) : (setOut bs s).cont = s.cont := rfl
@[simp] theorem setOut_delivered (bs : List Byte) (s : State) : (setOut bs s).delivered = s.delivered := rfl
@[simp] theorem setOut_draws (bs : List Byte) (s : State) : (setOut bs s).draws = s.draws := rfl

/-! ### setIn -/

@[simp] theorem setIn_params (r : List Byte) (s : State) : (setIn r s).params = s.params := rfl
@[simp] theorem setIn_handle (r : List Byte) (s : State) : (setIn r s).handle = s.handle := rfl
@[simp] theorem setIn_lock (r : List Byte) (s : State) : (setIn r s).lock = s.lock := rfl
@[simp] theorem setIn_phase (r : List Byte) (s : State) : (setIn r s).phase = s.phase := rfl
@[simp] theorem setIn_line (r : List Byte) (s : State) : (setIn r s).line = s.line := rfl
@[simp] theorem setIn_op (r : List Byte) (s : State) : (setIn r s).op = s.op := rfl
@[simp] theorem setIn_addr (r : List Byte) (s : State) : (setIn r s).addr = s.addr := rfl
@[simp] theorem setIn_cmd (r : List Byte) (s : State) : (setIn r s).cmd = s.cmd := rfl
@[simp] theorem setIn_wdata (r : List Byte) (s : State) : (setIn r s).wdata = s.wdata := rfl
@[simp] theorem setIn_pay (r : List Byte) (s : State) : (setIn r s).pay = s.pay := rfl
@[simp] theorem setIn_rlen (r : List Byte) (s : State) : (setIn r s).rlen = s.rlen := rfl
@[simp] theorem setIn_ok (r : List Byte) (s : State) : (setIn r s).ok = s.ok := rfl
@[simp] theorem setIn_raw (r : List Byte) (s : State) : (setIn r s).raw = s.raw := rfl
@[simp] theorem setIn_bytes (r : List Byte) (s : State) : (setIn r s).bytes = s.bytes := rfl
@[simp] theorem setIn_found (r : List Byte) (s : State) : (setIn r s).found = s.found := rfl
@[simp] theorem setIn_cause (r : List Byte) (s : State) : (setIn r s).cause = s.cause := rfl
@[simp] theorem setIn_out (r : List Byte) (s : State) : (setIn r s).out = s.out := rfl
@[simp] theorem setIn_inb (r : List Byte) (s : State) : (setIn r s).inb = Memory.storeBytes [] 0 r := rfl
@[simp] theorem setIn_inLen (r : List Byte) (s : State) : (setIn r s).inLen = r.length := rfl
@[simp] theorem setIn_scanPtr (r : List Byte) (s : State) : (setIn r s).scanPtr = s.scanPtr := rfl
@[simp] theorem setIn_settleTimer (r : List Byte) (s : State) : (setIn r s).settleTimer = s.settleTimer := rfl
@[simp] theorem setIn_readDeadline (r : List Byte) (s : State) : (setIn r s).readDeadline = s.readDeadline := rfl
@[simp] theorem setIn_link (r : List Byte) (s : State) : (setIn r s).link = s.link := rfl
@[simp] theorem setIn_port (r : List Byte) (s : State) : (setIn r s).port = s.port := rfl
@[simp] theorem setIn_issuer (r : List Byte) (s : State) : (setIn r s).issuer = s.issuer := rfl
@[simp] theorem setIn_turns (r : List Byte) (s : State) : (setIn r s).turns = s.turns := rfl
@[simp] theorem setIn_cont (r : List Byte) (s : State) : (setIn r s).cont = s.cont := rfl
@[simp] theorem setIn_delivered (r : List Byte) (s : State) : (setIn r s).delivered = s.delivered := rfl
@[simp] theorem setIn_draws (r : List Byte) (s : State) : (setIn r s).draws = s.draws := rfl

/-! ### acquire -/

@[simp] theorem acquire_params (c : Call) (k : Cont) (s : State) : (acquire c k s).params = s.params := by cases c <;> rfl
@[simp] theorem acquire_handle (c : Call) (k : Cont) (s : State) : (acquire c k s).handle = s.handle := by cases c <;> rfl
@[simp] theorem acquire_lock (c : Call) (k : Cont) (s : State) : (acquire c k s).lock = .held s.issuer := by cases c <;> rfl
@[simp] theorem acquire_phase (c : Call) (k : Cont) (s : State) : (acquire c k s).phase = .check := by cases c <;> rfl
@[simp] theorem acquire_line (c : Call) (k : Cont) (s : State) : (acquire c k s).line = .connectedTest := by cases c <;> rfl
@[simp] theorem acquire_op (c : Call) (k : Cont) (s : State) : (acquire c k s).op = c.op := by cases c <;> rfl
@[simp] theorem acquire_pay (c : Call) (k : Cont) (s : State) : (acquire c k s).pay = s.pay := by cases c <;> rfl
@[simp] theorem acquire_rlen (c : Call) (k : Cont) (s : State) : (acquire c k s).rlen = s.rlen := by cases c <;> rfl
@[simp] theorem acquire_ok (c : Call) (k : Cont) (s : State) : (acquire c k s).ok = s.ok := by cases c <;> rfl
@[simp] theorem acquire_raw (c : Call) (k : Cont) (s : State) : (acquire c k s).raw = s.raw := by cases c <;> rfl
@[simp] theorem acquire_bytes (c : Call) (k : Cont) (s : State) : (acquire c k s).bytes = s.bytes := by cases c <;> rfl
@[simp] theorem acquire_found (c : Call) (k : Cont) (s : State) : (acquire c k s).found = s.found := by cases c <;> rfl
@[simp] theorem acquire_cause (c : Call) (k : Cont) (s : State) : (acquire c k s).cause = .none := by cases c <;> rfl
@[simp] theorem acquire_out (c : Call) (k : Cont) (s : State) : (acquire c k s).out = s.out := by cases c <;> rfl
@[simp] theorem acquire_inb (c : Call) (k : Cont) (s : State) : (acquire c k s).inb = s.inb := by cases c <;> rfl
@[simp] theorem acquire_inLen (c : Call) (k : Cont) (s : State) : (acquire c k s).inLen = s.inLen := by cases c <;> rfl
@[simp] theorem acquire_scanPtr (c : Call) (k : Cont) (s : State) : (acquire c k s).scanPtr = s.scanPtr := by cases c <;> rfl
@[simp] theorem acquire_settleTimer (c : Call) (k : Cont) (s : State) : (acquire c k s).settleTimer = s.settleTimer := by cases c <;> rfl
@[simp] theorem acquire_readDeadline (c : Call) (k : Cont) (s : State) : (acquire c k s).readDeadline = s.readDeadline := by cases c <;> rfl
@[simp] theorem acquire_link (c : Call) (k : Cont) (s : State) : (acquire c k s).link = s.link := by cases c <;> rfl
@[simp] theorem acquire_port (c : Call) (k : Cont) (s : State) : (acquire c k s).port = s.port := by cases c <;> rfl
@[simp] theorem acquire_issuer (c : Call) (k : Cont) (s : State) : (acquire c k s).issuer = s.issuer := by cases c <;> rfl
@[simp] theorem acquire_turns (c : Call) (k : Cont) (s : State) : (acquire c k s).turns = s.turns := by cases c <;> rfl
@[simp] theorem acquire_cont (c : Call) (k : Cont) (s : State) : (acquire c k s).cont = k := by cases c <;> rfl
@[simp] theorem acquire_delivered (c : Call) (k : Cont) (s : State) : (acquire c k s).delivered = s.delivered := by cases c <;> rfl
@[simp] theorem acquire_draws (c : Call) (k : Cont) (s : State) : (acquire c k s).draws = s.draws := by cases c <;> rfl

/-! ### setNegative -/

@[simp] theorem setNegative_params (s : State) : (setNegative s).params = s.params := by cases h : s.op <;> simp [setNegative, h]
@[simp] theorem setNegative_handle (s : State) : (setNegative s).handle = s.handle := by cases h : s.op <;> simp [setNegative, h]
@[simp] theorem setNegative_lock (s : State) : (setNegative s).lock = s.lock := by cases h : s.op <;> simp [setNegative, h]
@[simp] theorem setNegative_phase (s : State) : (setNegative s).phase = s.phase := by cases h : s.op <;> simp [setNegative, h]
@[simp] theorem setNegative_line (s : State) : (setNegative s).line = s.line := by cases h : s.op <;> simp [setNegative, h]
@[simp] theorem setNegative_op (s : State) : (setNegative s).op = s.op := by cases h : s.op <;> simp [setNegative, h]
@[simp] theorem setNegative_addr (s : State) : (setNegative s).addr = s.addr := by cases h : s.op <;> simp [setNegative, h]
@[simp] theorem setNegative_cmd (s : State) : (setNegative s).cmd = s.cmd := by cases h : s.op <;> simp [setNegative, h]
@[simp] theorem setNegative_wdata (s : State) : (setNegative s).wdata = s.wdata := by cases h : s.op <;> simp [setNegative, h]
@[simp] theorem setNegative_pay (s : State) : (setNegative s).pay = s.pay := by cases h : s.op <;> simp [setNegative, h]
@[simp] theorem setNegative_rlen (s : State) : (setNegative s).rlen = s.rlen := by cases h : s.op <;> simp [setNegative, h]
@[simp] theorem setNegative_cause (s : State) : (setNegative s).cause = s.cause := by cases h : s.op <;> simp [setNegative, h]
@[simp] theorem setNegative_out (s : State) : (setNegative s).out = s.out := by cases h : s.op <;> simp [setNegative, h]
@[simp] theorem setNegative_inb (s : State) : (setNegative s).inb = s.inb := by cases h : s.op <;> simp [setNegative, h]
@[simp] theorem setNegative_inLen (s : State) : (setNegative s).inLen = s.inLen := by cases h : s.op <;> simp [setNegative, h]
@[simp] theorem setNegative_scanPtr (s : State) : (setNegative s).scanPtr = s.scanPtr := by cases h : s.op <;> simp [setNegative, h]
@[simp] theorem setNegative_settleTimer (s : State) : (setNegative s).settleTimer = s.settleTimer := by cases h : s.op <;> simp [setNegative, h]
@[simp] theorem setNegative_readDeadline (s : State) : (setNegative s).readDeadline = s.readDeadline := by cases h : s.op <;> simp [setNegative, h]
@[simp] theorem setNegative_link (s : State) : (setNegative s).link = s.link := by cases h : s.op <;> simp [setNegative, h]
@[simp] theorem setNegative_port (s : State) : (setNegative s).port = s.port := by cases h : s.op <;> simp [setNegative, h]
@[simp] theorem setNegative_issuer (s : State) : (setNegative s).issuer = s.issuer := by cases h : s.op <;> simp [setNegative, h]
@[simp] theorem setNegative_turns (s : State) : (setNegative s).turns = s.turns := by cases h : s.op <;> simp [setNegative, h]
@[simp] theorem setNegative_cont (s : State) : (setNegative s).cont = s.cont := by cases h : s.op <;> simp [setNegative, h]
@[simp] theorem setNegative_delivered (s : State) : (setNegative s).delivered = s.delivered := by cases h : s.op <;> simp [setNegative, h]
@[simp] theorem setNegative_draws (s : State) : (setNegative s).draws = s.draws := by cases h : s.op <;> simp [setNegative, h]

/-! ### finish -/

@[simp] theorem finish_params (s : State) : (finish s).params = s.params := rfl
@[simp] theorem finish_handle (s : State) : (finish s).handle = s.handle := rfl
@[simp] theorem finish_lock (s : State) : (finish s).lock = s.lock := rfl
@[simp] theorem finish_phase (s : State) : (finish s).phase = .done := rfl
@[simp] theorem finish_line (s : State) : (finish s).line = .release := rfl
@[simp] theorem finish_op (s : State) : (finish s).op = s.op := rfl
@[simp] theorem finish_addr (s : State) : (finish s).addr = s.addr := rfl
@[simp] theorem finish_cmd (s : State) : (finish s).cmd = s.cmd := rfl
@[simp] theorem finish_wdata (s : State) : (finish s).wdata = s.wdata := rfl
@[simp] theorem finish_pay (s : State) : (finish s).pay = s.pay := rfl
@[simp] theorem finish_rlen (s : State) : (finish s).rlen = s.rlen := rfl
@[simp] theorem finish_ok (s : State) : (finish s).ok = s.ok := rfl
@[simp] theorem finish_raw (s : State) : (finish s).raw = s.raw := rfl
@[simp] theorem finish_bytes (s : State) : (finish s).bytes = s.bytes := rfl
@[simp] theorem finish_found (s : State) : (finish s).found = s.found := rfl
@[simp] theorem finish_cause (s : State) : (finish s).cause = s.cause := rfl
@[simp] theorem finish_out (s : State) : (finish s).out = s.out := rfl
@[simp] theorem finish_inb (s : State) : (finish s).inb = s.inb := rfl
@[simp] theorem finish_inLen (s : State) : (finish s).inLen = s.inLen := rfl
@[simp] theorem finish_scanPtr (s : State) : (finish s).scanPtr = s.scanPtr := rfl
@[simp] theorem finish_settleTimer (s : State) : (finish s).settleTimer = s.settleTimer := rfl
@[simp] theorem finish_readDeadline (s : State) : (finish s).readDeadline = s.readDeadline := rfl
@[simp] theorem finish_link (s : State) : (finish s).link = s.link := rfl
@[simp] theorem finish_port (s : State) : (finish s).port = s.port := rfl
@[simp] theorem finish_issuer (s : State) : (finish s).issuer = s.issuer := rfl
@[simp] theorem finish_turns (s : State) : (finish s).turns = s.turns := rfl
@[simp] theorem finish_cont (s : State) : (finish s).cont = s.cont := rfl
@[simp] theorem finish_delivered (s : State) : (finish s).delivered = s.delivered := rfl
@[simp] theorem finish_draws (s : State) : (finish s).draws = s.draws := rfl

/-! ### failed -/

@[simp] theorem failed_params (s : State) : (failed s).params = s.params := by simp [failed]
@[simp] theorem failed_handle (s : State) : (failed s).handle = s.handle := by simp [failed]
@[simp] theorem failed_lock (s : State) : (failed s).lock = s.lock := by simp [failed]
@[simp] theorem failed_phase (s : State) : (failed s).phase = .done := by simp [failed]
@[simp] theorem failed_line (s : State) : (failed s).line = .release := by simp [failed]
@[simp] theorem failed_op (s : State) : (failed s).op = s.op := by simp [failed]
@[simp] theorem failed_addr (s : State) : (failed s).addr = s.addr := by simp [failed]
@[simp] theorem failed_cmd (s : State) : (failed s).cmd = s.cmd := by simp [failed]
@[simp] theorem failed_wdata (s : State) : (failed s).wdata = s.wdata := by simp [failed]
@[simp] theorem failed_pay (s : State) : (failed s).pay = s.pay := by simp [failed]
@[simp] theorem failed_rlen (s : State) : (failed s).rlen = s.rlen := by simp [failed]
@[simp] theorem failed_cause (s : State) : (failed s).cause = s.cause := by simp [failed]
@[simp] theorem failed_out (s : State) : (failed s).out = s.out := by simp [failed]
@[simp] theorem failed_inb (s : State) : (failed s).inb = s.inb := by simp [failed]
@[simp] theorem failed_inLen (s : State) : (failed s).inLen = s.inLen := by simp [failed]
@[simp] theorem failed_scanPtr (s : State) : (failed s).scanPtr = s.scanPtr := by simp [failed]
@[simp] theorem failed_settleTimer (s : State) : (failed s).settleTimer = s.settleTimer := by simp [failed]
@[simp] theorem failed_readDeadline (s : State) : (failed s).readDeadline = s.readDeadline := by simp [failed]
@[simp] theorem failed_link (s : State) : (failed s).link = s.link := by simp [failed]
@[simp] theorem failed_port (s : State) : (failed s).port = s.port := by simp [failed]
@[simp] theorem failed_issuer (s : State) : (failed s).issuer = s.issuer := by simp [failed]
@[simp] theorem failed_turns (s : State) : (failed s).turns = s.turns := by simp [failed]
@[simp] theorem failed_cont (s : State) : (failed s).cont = s.cont := by simp [failed]
@[simp] theorem failed_delivered (s : State) : (failed s).delivered = s.delivered := by simp [failed]
@[simp] theorem failed_draws (s : State) : (failed s).draws = s.draws := by simp [failed]

/-! ### raise -/

@[simp] theorem raise_params (c : Cause) (s : State) : (raise c s).params = s.params := by simp [raise]
@[simp] theorem raise_handle (c : Cause) (s : State) : (raise c s).handle = s.handle := by simp [raise]
@[simp] theorem raise_lock (c : Cause) (s : State) : (raise c s).lock = s.lock := by simp [raise]
@[simp] theorem raise_phase (c : Cause) (s : State) : (raise c s).phase = .done := by simp [raise]
@[simp] theorem raise_line (c : Cause) (s : State) : (raise c s).line = .release := by simp [raise]
@[simp] theorem raise_op (c : Cause) (s : State) : (raise c s).op = s.op := by simp [raise]
@[simp] theorem raise_addr (c : Cause) (s : State) : (raise c s).addr = s.addr := by simp [raise]
@[simp] theorem raise_cmd (c : Cause) (s : State) : (raise c s).cmd = s.cmd := by simp [raise]
@[simp] theorem raise_wdata (c : Cause) (s : State) : (raise c s).wdata = s.wdata := by simp [raise]
@[simp] theorem raise_pay (c : Cause) (s : State) : (raise c s).pay = s.pay := by simp [raise]
@[simp] theorem raise_rlen (c : Cause) (s : State) : (raise c s).rlen = s.rlen := by simp [raise]
@[simp] theorem raise_cause (c : Cause) (s : State) : (raise c s).cause = c := by simp [raise]
@[simp] theorem raise_out (c : Cause) (s : State) : (raise c s).out = s.out := by simp [raise]
@[simp] theorem raise_inb (c : Cause) (s : State) : (raise c s).inb = s.inb := by simp [raise]
@[simp] theorem raise_inLen (c : Cause) (s : State) : (raise c s).inLen = s.inLen := by simp [raise]
@[simp] theorem raise_scanPtr (c : Cause) (s : State) : (raise c s).scanPtr = s.scanPtr := by simp [raise]
@[simp] theorem raise_settleTimer (c : Cause) (s : State) : (raise c s).settleTimer = s.settleTimer := by simp [raise]
@[simp] theorem raise_readDeadline (c : Cause) (s : State) : (raise c s).readDeadline = s.readDeadline := by simp [raise]
@[simp] theorem raise_link (c : Cause) (s : State) : (raise c s).link = s.link := by simp [raise]
@[simp] theorem raise_port (c : Cause) (s : State) : (raise c s).port = s.port := by simp [raise]
@[simp] theorem raise_issuer (c : Cause) (s : State) : (raise c s).issuer = s.issuer := by simp [raise]
@[simp] theorem raise_turns (c : Cause) (s : State) : (raise c s).turns = s.turns := by simp [raise]
@[simp] theorem raise_cont (c : Cause) (s : State) : (raise c s).cont = s.cont := by simp [raise]
@[simp] theorem raise_delivered (c : Cause) (s : State) : (raise c s).delivered = s.delivered := by simp [raise]
@[simp] theorem raise_draws (c : Cause) (s : State) : (raise c s).draws = s.draws := by simp [raise]

/-! ### startSettle -/

@[simp] theorem startSettle_params (s : State) : (startSettle s).params = s.params := rfl
@[simp] theorem startSettle_handle (s : State) : (startSettle s).handle = s.handle := rfl
@[simp] theorem startSettle_lock (s : State) : (startSettle s).lock = s.lock := rfl
@[simp] theorem startSettle_phase (s : State) : (startSettle s).phase = .settle := rfl
@[simp] theorem startSettle_line (s : State) : (startSettle s).line = s.line := rfl
@[simp] theorem startSettle_op (s : State) : (startSettle s).op = s.op := rfl
@[simp] theorem startSettle_addr (s : State) : (startSettle s).addr = s.addr := rfl
@[simp] theorem startSettle_cmd (s : State) : (startSettle s).cmd = s.cmd := rfl
@[simp] theorem startSettle_wdata (s : State) : (startSettle s).wdata = s.wdata := rfl
@[simp] theorem startSettle_pay (s : State) : (startSettle s).pay = s.pay := rfl
@[simp] theorem startSettle_rlen (s : State) : (startSettle s).rlen = s.rlen := rfl
@[simp] theorem startSettle_ok (s : State) : (startSettle s).ok = s.ok := rfl
@[simp] theorem startSettle_raw (s : State) : (startSettle s).raw = s.raw := rfl
@[simp] theorem startSettle_bytes (s : State) : (startSettle s).bytes = s.bytes := rfl
@[simp] theorem startSettle_found (s : State) : (startSettle s).found = s.found := rfl
@[simp] theorem startSettle_cause (s : State) : (startSettle s).cause = s.cause := rfl
@[simp] theorem startSettle_out (s : State) : (startSettle s).out = s.out := rfl
@[simp] theorem startSettle_inb (s : State) : (startSettle s).inb = s.inb := rfl
@[simp] theorem startSettle_inLen (s : State) : (startSettle s).inLen = s.inLen := rfl
@[simp] theorem startSettle_scanPtr (s : State) : (startSettle s).scanPtr = s.scanPtr := rfl
@[simp] theorem startSettle_settleTimer (s : State) : (startSettle s).settleTimer = some Config.tSettle := rfl
@[simp] theorem startSettle_readDeadline (s : State) : (startSettle s).readDeadline = s.readDeadline := rfl
@[simp] theorem startSettle_link (s : State) : (startSettle s).link = s.link := rfl
@[simp] theorem startSettle_port (s : State) : (startSettle s).port = s.port := rfl
@[simp] theorem startSettle_issuer (s : State) : (startSettle s).issuer = s.issuer := rfl
@[simp] theorem startSettle_turns (s : State) : (startSettle s).turns = s.turns := rfl
@[simp] theorem startSettle_cont (s : State) : (startSettle s).cont = s.cont := rfl
@[simp] theorem startSettle_delivered (s : State) : (startSettle s).delivered = s.delivered := rfl
@[simp] theorem startSettle_draws (s : State) : (startSettle s).draws = s.draws := rfl

/-! ### endSettle -/

@[simp] theorem endSettle_params (s : State) : (endSettle s).params = s.params := rfl
@[simp] theorem endSettle_handle (s : State) : (endSettle s).handle = s.handle := rfl
@[simp] theorem endSettle_lock (s : State) : (endSettle s).lock = s.lock := rfl
@[simp] theorem endSettle_phase (s : State) : (endSettle s).phase = s.phase := rfl
@[simp] theorem endSettle_line (s : State) : (endSettle s).line = s.line := rfl
@[simp] theorem endSettle_op (s : State) : (endSettle s).op = s.op := rfl
@[simp] theorem endSettle_addr (s : State) : (endSettle s).addr = s.addr := rfl
@[simp] theorem endSettle_cmd (s : State) : (endSettle s).cmd = s.cmd := rfl
@[simp] theorem endSettle_wdata (s : State) : (endSettle s).wdata = s.wdata := rfl
@[simp] theorem endSettle_pay (s : State) : (endSettle s).pay = s.pay := rfl
@[simp] theorem endSettle_rlen (s : State) : (endSettle s).rlen = s.rlen := rfl
@[simp] theorem endSettle_ok (s : State) : (endSettle s).ok = s.ok := rfl
@[simp] theorem endSettle_raw (s : State) : (endSettle s).raw = s.raw := rfl
@[simp] theorem endSettle_bytes (s : State) : (endSettle s).bytes = s.bytes := rfl
@[simp] theorem endSettle_found (s : State) : (endSettle s).found = s.found := rfl
@[simp] theorem endSettle_cause (s : State) : (endSettle s).cause = s.cause := rfl
@[simp] theorem endSettle_out (s : State) : (endSettle s).out = s.out := rfl
@[simp] theorem endSettle_inb (s : State) : (endSettle s).inb = s.inb := rfl
@[simp] theorem endSettle_inLen (s : State) : (endSettle s).inLen = s.inLen := rfl
@[simp] theorem endSettle_scanPtr (s : State) : (endSettle s).scanPtr = s.scanPtr := rfl
@[simp] theorem endSettle_settleTimer (s : State) : (endSettle s).settleTimer = none := rfl
@[simp] theorem endSettle_readDeadline (s : State) : (endSettle s).readDeadline = s.readDeadline := rfl
@[simp] theorem endSettle_link (s : State) : (endSettle s).link = s.link := rfl
@[simp] theorem endSettle_port (s : State) : (endSettle s).port = s.port := rfl
@[simp] theorem endSettle_issuer (s : State) : (endSettle s).issuer = s.issuer := rfl
@[simp] theorem endSettle_turns (s : State) : (endSettle s).turns = s.turns := rfl
@[simp] theorem endSettle_cont (s : State) : (endSettle s).cont = s.cont := rfl
@[simp] theorem endSettle_delivered (s : State) : (endSettle s).delivered = s.delivered := rfl
@[simp] theorem endSettle_draws (s : State) : (endSettle s).draws = s.draws := rfl

/-! ### closeHandle -/

@[simp] theorem closeHandle_params (s : State) : (closeHandle s).params = s.params := rfl
@[simp] theorem closeHandle_handle (s : State) : (closeHandle s).handle = none := rfl
@[simp] theorem closeHandle_lock (s : State) : (closeHandle s).lock = s.lock := rfl
@[simp] theorem closeHandle_phase (s : State) : (closeHandle s).phase = s.phase := rfl
@[simp] theorem closeHandle_line (s : State) : (closeHandle s).line = s.line := rfl
@[simp] theorem closeHandle_op (s : State) : (closeHandle s).op = s.op := rfl
@[simp] theorem closeHandle_addr (s : State) : (closeHandle s).addr = s.addr := rfl
@[simp] theorem closeHandle_cmd (s : State) : (closeHandle s).cmd = s.cmd := rfl
@[simp] theorem closeHandle_wdata (s : State) : (closeHandle s).wdata = s.wdata := rfl
@[simp] theorem closeHandle_pay (s : State) : (closeHandle s).pay = s.pay := rfl
@[simp] theorem closeHandle_rlen (s : State) : (closeHandle s).rlen = s.rlen := rfl
@[simp] theorem closeHandle_ok (s : State) : (closeHandle s).ok = s.ok := rfl
@[simp] theorem closeHandle_raw (s : State) : (closeHandle s).raw = s.raw := rfl
@[simp] theorem closeHandle_bytes (s : State) : (closeHandle s).bytes = s.bytes := rfl
@[simp] theorem closeHandle_found (s : State) : (closeHandle s).found = s.found := rfl
@[simp] theorem closeHandle_cause (s : State) : (closeHandle s).cause = s.cause := rfl
@[simp] theorem closeHandle_out (s : State) : (closeHandle s).out = s.out := rfl
@[simp] theorem closeHandle_inb (s : State) : (closeHandle s).inb = s.inb := rfl
@[simp] theorem closeHandle_inLen (s : State) : (closeHandle s).inLen = s.inLen := rfl
@[simp] theorem closeHandle_scanPtr (s : State) : (closeHandle s).scanPtr = s.scanPtr := rfl
@[simp] theorem closeHandle_settleTimer (s : State) : (closeHandle s).settleTimer = s.settleTimer := rfl
@[simp] theorem closeHandle_readDeadline (s : State) : (closeHandle s).readDeadline = s.readDeadline := rfl
@[simp] theorem closeHandle_link (s : State) : (closeHandle s).link = s.link.close := rfl
@[simp] theorem closeHandle_port (s : State) : (closeHandle s).port = s.port := rfl
@[simp] theorem closeHandle_issuer (s : State) : (closeHandle s).issuer = s.issuer := rfl
@[simp] theorem closeHandle_turns (s : State) : (closeHandle s).turns = s.turns := rfl
@[simp] theorem closeHandle_cont (s : State) : (closeHandle s).cont = s.cont := rfl
@[simp] theorem closeHandle_delivered (s : State) : (closeHandle s).delivered = s.delivered := rfl
@[simp] theorem closeHandle_draws (s : State) : (closeHandle s).draws = s.draws := rfl

/-! ### advanceScan -/

@[simp] theorem advanceScan_params (s : State) : (advanceScan s).params = s.params := rfl
@[simp] theorem advanceScan_handle (s : State) : (advanceScan s).handle = s.handle := rfl
@[simp] theorem advanceScan_lock (s : State) : (advanceScan s).lock = s.lock := rfl
@[simp] theorem advanceScan_phase (s : State) : (advanceScan s).phase = s.phase := rfl
@[simp] theorem advanceScan_line (s : State) : (advanceScan s).line = s.line := rfl
@[simp] theorem advanceScan_op (s : State) : (advanceScan s).op = s.op := rfl
@[simp] theorem advanceScan_addr (s : State) : (advanceScan s).addr = s.addr := rfl
@[simp] theorem advanceScan_cmd (s : State) : (advanceScan s).cmd = s.cmd := rfl
@[simp] theorem advanceScan_wdata (s : State) : (advanceScan s).wdata = s.wdata := rfl
@[simp] theorem advanceScan_pay (s : State) : (advanceScan s).pay = s.pay := rfl
@[simp] theorem advanceScan_rlen (s : State) : (advanceScan s).rlen = s.rlen := rfl
@[simp] theorem advanceScan_ok (s : State) : (advanceScan s).ok = s.ok := rfl
@[simp] theorem advanceScan_raw (s : State) : (advanceScan s).raw = s.raw := rfl
@[simp] theorem advanceScan_bytes (s : State) : (advanceScan s).bytes = s.bytes := rfl
@[simp] theorem advanceScan_found (s : State) : (advanceScan s).found = s.found := rfl
@[simp] theorem advanceScan_cause (s : State) : (advanceScan s).cause = s.cause := rfl
@[simp] theorem advanceScan_out (s : State) : (advanceScan s).out = s.out := rfl
@[simp] theorem advanceScan_inb (s : State) : (advanceScan s).inb = s.inb := rfl
@[simp] theorem advanceScan_inLen (s : State) : (advanceScan s).inLen = s.inLen := rfl
@[simp] theorem advanceScan_scanPtr (s : State) : (advanceScan s).scanPtr = s.scanPtr + 1 := rfl
@[simp] theorem advanceScan_settleTimer (s : State) : (advanceScan s).settleTimer = s.settleTimer := rfl
@[simp] theorem advanceScan_readDeadline (s : State) : (advanceScan s).readDeadline = s.readDeadline := rfl
@[simp] theorem advanceScan_link (s : State) : (advanceScan s).link = s.link := rfl
@[simp] theorem advanceScan_port (s : State) : (advanceScan s).port = s.port := rfl
@[simp] theorem advanceScan_issuer (s : State) : (advanceScan s).issuer = s.issuer := rfl
@[simp] theorem advanceScan_turns (s : State) : (advanceScan s).turns = s.turns := rfl
@[simp] theorem advanceScan_cont (s : State) : (advanceScan s).cont = s.cont := rfl
@[simp] theorem advanceScan_delivered (s : State) : (advanceScan s).delivered = s.delivered := rfl
@[simp] theorem advanceScan_draws (s : State) : (advanceScan s).draws = s.draws := rfl

/-! ### startScan -/

@[simp] theorem startScan_params (s : State) : (startScan s).params = s.params := rfl
@[simp] theorem startScan_handle (s : State) : (startScan s).handle = s.handle := rfl
@[simp] theorem startScan_lock (s : State) : (startScan s).lock = s.lock := rfl
@[simp] theorem startScan_phase (s : State) : (startScan s).phase = s.phase := rfl
@[simp] theorem startScan_line (s : State) : (startScan s).line = s.line := rfl
@[simp] theorem startScan_op (s : State) : (startScan s).op = s.op := rfl
@[simp] theorem startScan_addr (s : State) : (startScan s).addr = s.addr := rfl
@[simp] theorem startScan_cmd (s : State) : (startScan s).cmd = s.cmd := rfl
@[simp] theorem startScan_wdata (s : State) : (startScan s).wdata = s.wdata := rfl
@[simp] theorem startScan_pay (s : State) : (startScan s).pay = s.pay := rfl
@[simp] theorem startScan_rlen (s : State) : (startScan s).rlen = s.rlen := rfl
@[simp] theorem startScan_ok (s : State) : (startScan s).ok = s.ok := rfl
@[simp] theorem startScan_raw (s : State) : (startScan s).raw = s.raw := rfl
@[simp] theorem startScan_bytes (s : State) : (startScan s).bytes = s.bytes := rfl
@[simp] theorem startScan_found (s : State) : (startScan s).found = [] := rfl
@[simp] theorem startScan_cause (s : State) : (startScan s).cause = s.cause := rfl
@[simp] theorem startScan_out (s : State) : (startScan s).out = s.out := rfl
@[simp] theorem startScan_inb (s : State) : (startScan s).inb = s.inb := rfl
@[simp] theorem startScan_inLen (s : State) : (startScan s).inLen = s.inLen := rfl
@[simp] theorem startScan_scanPtr (s : State) : (startScan s).scanPtr = Config.addrLo.setWidth 8 := rfl
@[simp] theorem startScan_settleTimer (s : State) : (startScan s).settleTimer = s.settleTimer := rfl
@[simp] theorem startScan_readDeadline (s : State) : (startScan s).readDeadline = s.readDeadline := rfl
@[simp] theorem startScan_link (s : State) : (startScan s).link = s.link := rfl
@[simp] theorem startScan_port (s : State) : (startScan s).port = s.port := rfl
@[simp] theorem startScan_issuer (s : State) : (startScan s).issuer = s.issuer := rfl
@[simp] theorem startScan_turns (s : State) : (startScan s).turns = s.turns := rfl
@[simp] theorem startScan_cont (s : State) : (startScan s).cont = s.cont := rfl
@[simp] theorem startScan_delivered (s : State) : (startScan s).delivered = s.delivered := rfl
@[simp] theorem startScan_draws (s : State) : (startScan s).draws = s.draws := rfl

/-! ### noteProbe -/

@[simp] theorem noteProbe_params (b : Bool) (s : State) : (noteProbe b s).params = s.params := rfl
@[simp] theorem noteProbe_handle (b : Bool) (s : State) : (noteProbe b s).handle = s.handle := rfl
@[simp] theorem noteProbe_lock (b : Bool) (s : State) : (noteProbe b s).lock = s.lock := rfl
@[simp] theorem noteProbe_phase (b : Bool) (s : State) : (noteProbe b s).phase = .scanNext := rfl
@[simp] theorem noteProbe_line (b : Bool) (s : State) : (noteProbe b s).line = s.line := rfl
@[simp] theorem noteProbe_op (b : Bool) (s : State) : (noteProbe b s).op = s.op := rfl
@[simp] theorem noteProbe_addr (b : Bool) (s : State) : (noteProbe b s).addr = s.addr := rfl
@[simp] theorem noteProbe_cmd (b : Bool) (s : State) : (noteProbe b s).cmd = s.cmd := rfl
@[simp] theorem noteProbe_wdata (b : Bool) (s : State) : (noteProbe b s).wdata = s.wdata := rfl
@[simp] theorem noteProbe_pay (b : Bool) (s : State) : (noteProbe b s).pay = s.pay := rfl
@[simp] theorem noteProbe_rlen (b : Bool) (s : State) : (noteProbe b s).rlen = s.rlen := rfl
@[simp] theorem noteProbe_ok (b : Bool) (s : State) : (noteProbe b s).ok = s.ok := rfl
@[simp] theorem noteProbe_raw (b : Bool) (s : State) : (noteProbe b s).raw = s.raw := rfl
@[simp] theorem noteProbe_bytes (b : Bool) (s : State) : (noteProbe b s).bytes = s.bytes := rfl
@[simp] theorem noteProbe_found (b : Bool) (s : State) : (noteProbe b s).found = if b then s.found ++ [scanAddr s] else s.found := rfl
@[simp] theorem noteProbe_cause (b : Bool) (s : State) : (noteProbe b s).cause = s.cause := rfl
@[simp] theorem noteProbe_out (b : Bool) (s : State) : (noteProbe b s).out = s.out := rfl
@[simp] theorem noteProbe_inb (b : Bool) (s : State) : (noteProbe b s).inb = s.inb := rfl
@[simp] theorem noteProbe_inLen (b : Bool) (s : State) : (noteProbe b s).inLen = s.inLen := rfl
@[simp] theorem noteProbe_scanPtr (b : Bool) (s : State) : (noteProbe b s).scanPtr = s.scanPtr := rfl
@[simp] theorem noteProbe_settleTimer (b : Bool) (s : State) : (noteProbe b s).settleTimer = s.settleTimer := rfl
@[simp] theorem noteProbe_readDeadline (b : Bool) (s : State) : (noteProbe b s).readDeadline = s.readDeadline := rfl
@[simp] theorem noteProbe_link (b : Bool) (s : State) : (noteProbe b s).link = s.link := rfl
@[simp] theorem noteProbe_port (b : Bool) (s : State) : (noteProbe b s).port = s.port := rfl
@[simp] theorem noteProbe_issuer (b : Bool) (s : State) : (noteProbe b s).issuer = s.issuer := rfl
@[simp] theorem noteProbe_turns (b : Bool) (s : State) : (noteProbe b s).turns = s.turns := rfl
@[simp] theorem noteProbe_cont (b : Bool) (s : State) : (noteProbe b s).cont = s.cont := rfl
@[simp] theorem noteProbe_delivered (b : Bool) (s : State) : (noteProbe b s).delivered = s.delivered := rfl
@[simp] theorem noteProbe_draws (b : Bool) (s : State) : (noteProbe b s).draws = s.draws := rfl

/-! ### takeLock -/

@[simp] theorem takeLock_params (c : Call) (k : Cont) (s : State) : (takeLock c k s).params = s.params := rfl
@[simp] theorem takeLock_handle (c : Call) (k : Cont) (s : State) : (takeLock c k s).handle = s.handle := rfl
@[simp] theorem takeLock_lock (c : Call) (k : Cont) (s : State) : (takeLock c k s).lock = .held s.issuer := rfl
@[simp] theorem takeLock_phase (c : Call) (k : Cont) (s : State) : (takeLock c k s).phase = .check := rfl
@[simp] theorem takeLock_line (c : Call) (k : Cont) (s : State) : (takeLock c k s).line = .latch c := rfl
@[simp] theorem takeLock_op (c : Call) (k : Cont) (s : State) : (takeLock c k s).op = s.op := rfl
@[simp] theorem takeLock_addr (c : Call) (k : Cont) (s : State) : (takeLock c k s).addr = s.addr := rfl
@[simp] theorem takeLock_cmd (c : Call) (k : Cont) (s : State) : (takeLock c k s).cmd = s.cmd := rfl
@[simp] theorem takeLock_wdata (c : Call) (k : Cont) (s : State) : (takeLock c k s).wdata = s.wdata := rfl
@[simp] theorem takeLock_pay (c : Call) (k : Cont) (s : State) : (takeLock c k s).pay = s.pay := rfl
@[simp] theorem takeLock_rlen (c : Call) (k : Cont) (s : State) : (takeLock c k s).rlen = s.rlen := rfl
@[simp] theorem takeLock_ok (c : Call) (k : Cont) (s : State) : (takeLock c k s).ok = s.ok := rfl
@[simp] theorem takeLock_raw (c : Call) (k : Cont) (s : State) : (takeLock c k s).raw = s.raw := rfl
@[simp] theorem takeLock_bytes (c : Call) (k : Cont) (s : State) : (takeLock c k s).bytes = s.bytes := rfl
@[simp] theorem takeLock_found (c : Call) (k : Cont) (s : State) : (takeLock c k s).found = s.found := rfl
@[simp] theorem takeLock_cause (c : Call) (k : Cont) (s : State) : (takeLock c k s).cause = s.cause := rfl
@[simp] theorem takeLock_out (c : Call) (k : Cont) (s : State) : (takeLock c k s).out = s.out := rfl
@[simp] theorem takeLock_inb (c : Call) (k : Cont) (s : State) : (takeLock c k s).inb = s.inb := rfl
@[simp] theorem takeLock_inLen (c : Call) (k : Cont) (s : State) : (takeLock c k s).inLen = s.inLen := rfl
@[simp] theorem takeLock_scanPtr (c : Call) (k : Cont) (s : State) : (takeLock c k s).scanPtr = s.scanPtr := rfl
@[simp] theorem takeLock_settleTimer (c : Call) (k : Cont) (s : State) : (takeLock c k s).settleTimer = s.settleTimer := rfl
@[simp] theorem takeLock_readDeadline (c : Call) (k : Cont) (s : State) : (takeLock c k s).readDeadline = s.readDeadline := rfl
@[simp] theorem takeLock_link (c : Call) (k : Cont) (s : State) : (takeLock c k s).link = s.link := rfl
@[simp] theorem takeLock_port (c : Call) (k : Cont) (s : State) : (takeLock c k s).port = s.port := rfl
@[simp] theorem takeLock_issuer (c : Call) (k : Cont) (s : State) : (takeLock c k s).issuer = s.issuer := rfl
@[simp] theorem takeLock_turns (c : Call) (k : Cont) (s : State) : (takeLock c k s).turns = s.turns := rfl
@[simp] theorem takeLock_cont (c : Call) (k : Cont) (s : State) : (takeLock c k s).cont = k := rfl
@[simp] theorem takeLock_delivered (c : Call) (k : Cont) (s : State) : (takeLock c k s).delivered = s.delivered := rfl
@[simp] theorem takeLock_draws (c : Call) (k : Cont) (s : State) : (takeLock c k s).draws = s.draws := rfl

/-! ### goto -/

@[simp] theorem goto_params (l : Line) (s : State) : (goto l s).params = s.params := rfl
@[simp] theorem goto_handle (l : Line) (s : State) : (goto l s).handle = s.handle := rfl
@[simp] theorem goto_lock (l : Line) (s : State) : (goto l s).lock = s.lock := rfl
@[simp] theorem goto_phase (l : Line) (s : State) : (goto l s).phase = s.phase := rfl
@[simp] theorem goto_line (l : Line) (s : State) : (goto l s).line = l := rfl
@[simp] theorem goto_op (l : Line) (s : State) : (goto l s).op = s.op := rfl
@[simp] theorem goto_addr (l : Line) (s : State) : (goto l s).addr = s.addr := rfl
@[simp] theorem goto_cmd (l : Line) (s : State) : (goto l s).cmd = s.cmd := rfl
@[simp] theorem goto_wdata (l : Line) (s : State) : (goto l s).wdata = s.wdata := rfl
@[simp] theorem goto_pay (l : Line) (s : State) : (goto l s).pay = s.pay := rfl
@[simp] theorem goto_rlen (l : Line) (s : State) : (goto l s).rlen = s.rlen := rfl
@[simp] theorem goto_ok (l : Line) (s : State) : (goto l s).ok = s.ok := rfl
@[simp] theorem goto_raw (l : Line) (s : State) : (goto l s).raw = s.raw := rfl
@[simp] theorem goto_bytes (l : Line) (s : State) : (goto l s).bytes = s.bytes := rfl
@[simp] theorem goto_found (l : Line) (s : State) : (goto l s).found = s.found := rfl
@[simp] theorem goto_cause (l : Line) (s : State) : (goto l s).cause = s.cause := rfl
@[simp] theorem goto_out (l : Line) (s : State) : (goto l s).out = s.out := rfl
@[simp] theorem goto_inb (l : Line) (s : State) : (goto l s).inb = s.inb := rfl
@[simp] theorem goto_inLen (l : Line) (s : State) : (goto l s).inLen = s.inLen := rfl
@[simp] theorem goto_scanPtr (l : Line) (s : State) : (goto l s).scanPtr = s.scanPtr := rfl
@[simp] theorem goto_settleTimer (l : Line) (s : State) : (goto l s).settleTimer = s.settleTimer := rfl
@[simp] theorem goto_readDeadline (l : Line) (s : State) : (goto l s).readDeadline = s.readDeadline := rfl
@[simp] theorem goto_link (l : Line) (s : State) : (goto l s).link = s.link := rfl
@[simp] theorem goto_port (l : Line) (s : State) : (goto l s).port = s.port := rfl
@[simp] theorem goto_issuer (l : Line) (s : State) : (goto l s).issuer = s.issuer := rfl
@[simp] theorem goto_turns (l : Line) (s : State) : (goto l s).turns = s.turns := rfl
@[simp] theorem goto_cont (l : Line) (s : State) : (goto l s).cont = s.cont := rfl
@[simp] theorem goto_delivered (l : Line) (s : State) : (goto l s).delivered = s.delivered := rfl
@[simp] theorem goto_draws (l : Line) (s : State) : (goto l s).draws = s.draws := rfl

/-! ### setConnected -/

@[simp] theorem setConnected_params (d : Nat) (s : State) : (setConnected d s).params = s.params := rfl
@[simp] theorem setConnected_handle (d : Nat) (s : State) : (setConnected d s).handle = some ⟨d, Config.tReadTimeout⟩ := rfl
@[simp] theorem setConnected_lock (d : Nat) (s : State) : (setConnected d s).lock = s.lock := rfl
@[simp] theorem setConnected_phase (d : Nat) (s : State) : (setConnected d s).phase = s.phase := rfl
@[simp] theorem setConnected_line (d : Nat) (s : State) : (setConnected d s).line = s.line := rfl
@[simp] theorem setConnected_op (d : Nat) (s : State) : (setConnected d s).op = s.op := rfl
@[simp] theorem setConnected_addr (d : Nat) (s : State) : (setConnected d s).addr = s.addr := rfl
@[simp] theorem setConnected_cmd (d : Nat) (s : State) : (setConnected d s).cmd = s.cmd := rfl
@[simp] theorem setConnected_wdata (d : Nat) (s : State) : (setConnected d s).wdata = s.wdata := rfl
@[simp] theorem setConnected_pay (d : Nat) (s : State) : (setConnected d s).pay = s.pay := rfl
@[simp] theorem setConnected_rlen (d : Nat) (s : State) : (setConnected d s).rlen = s.rlen := rfl
@[simp] theorem setConnected_ok (d : Nat) (s : State) : (setConnected d s).ok = true := rfl
@[simp] theorem setConnected_raw (d : Nat) (s : State) : (setConnected d s).raw = s.raw := rfl
@[simp] theorem setConnected_bytes (d : Nat) (s : State) : (setConnected d s).bytes = s.bytes := rfl
@[simp] theorem setConnected_found (d : Nat) (s : State) : (setConnected d s).found = s.found := rfl
@[simp] theorem setConnected_cause (d : Nat) (s : State) : (setConnected d s).cause = s.cause := rfl
@[simp] theorem setConnected_out (d : Nat) (s : State) : (setConnected d s).out = s.out := rfl
@[simp] theorem setConnected_inb (d : Nat) (s : State) : (setConnected d s).inb = s.inb := rfl
@[simp] theorem setConnected_inLen (d : Nat) (s : State) : (setConnected d s).inLen = s.inLen := rfl
@[simp] theorem setConnected_scanPtr (d : Nat) (s : State) : (setConnected d s).scanPtr = s.scanPtr := rfl
@[simp] theorem setConnected_settleTimer (d : Nat) (s : State) : (setConnected d s).settleTimer = s.settleTimer := rfl
@[simp] theorem setConnected_readDeadline (d : Nat) (s : State) : (setConnected d s).readDeadline = s.readDeadline := rfl
@[simp] theorem setConnected_link (d : Nat) (s : State) : (setConnected d s).link = s.link := rfl
@[simp] theorem setConnected_port (d : Nat) (s : State) : (setConnected d s).port = s.port := rfl
@[simp] theorem setConnected_issuer (d : Nat) (s : State) : (setConnected d s).issuer = s.issuer := rfl
@[simp] theorem setConnected_turns (d : Nat) (s : State) : (setConnected d s).turns = s.turns := rfl
@[simp] theorem setConnected_cont (d : Nat) (s : State) : (setConnected d s).cont = s.cont := rfl
@[simp] theorem setConnected_delivered (d : Nat) (s : State) : (setConnected d s).delivered = s.delivered := rfl
@[simp] theorem setConnected_draws (d : Nat) (s : State) : (setConnected d s).draws = s.draws := rfl

/-! ### callEnumerate -/

@[simp] theorem callEnumerate_params (s : State) : (callEnumerate s).params = s.params := rfl
@[simp] theorem callEnumerate_handle (s : State) : (callEnumerate s).handle = s.handle := rfl
@[simp] theorem callEnumerate_lock (s : State) : (callEnumerate s).lock = s.lock := rfl
@[simp] theorem callEnumerate_phase (s : State) : (callEnumerate s).phase = s.phase := rfl
@[simp] theorem callEnumerate_line (s : State) : (callEnumerate s).line = s.line := rfl
@[simp] theorem callEnumerate_op (s : State) : (callEnumerate s).op = s.op := rfl
@[simp] theorem callEnumerate_addr (s : State) : (callEnumerate s).addr = s.addr := rfl
@[simp] theorem callEnumerate_cmd (s : State) : (callEnumerate s).cmd = s.cmd := rfl
@[simp] theorem callEnumerate_wdata (s : State) : (callEnumerate s).wdata = s.wdata := rfl
@[simp] theorem callEnumerate_pay (s : State) : (callEnumerate s).pay = s.pay := rfl
@[simp] theorem callEnumerate_rlen (s : State) : (callEnumerate s).rlen = s.rlen := rfl
@[simp] theorem callEnumerate_ok (s : State) : (callEnumerate s).ok = s.ok := rfl
@[simp] theorem callEnumerate_raw (s : State) : (callEnumerate s).raw = s.raw := rfl
@[simp] theorem callEnumerate_bytes (s : State) : (callEnumerate s).bytes = s.bytes := rfl
@[simp] theorem callEnumerate_found (s : State) : (callEnumerate s).found = s.found := rfl
@[simp] theorem callEnumerate_cause (s : State) : (callEnumerate s).cause = s.cause := rfl
@[simp] theorem callEnumerate_out (s : State) : (callEnumerate s).out = s.out := rfl
@[simp] theorem callEnumerate_inb (s : State) : (callEnumerate s).inb = s.inb := rfl
@[simp] theorem callEnumerate_inLen (s : State) : (callEnumerate s).inLen = s.inLen := rfl
@[simp] theorem callEnumerate_scanPtr (s : State) : (callEnumerate s).scanPtr = s.scanPtr := rfl
@[simp] theorem callEnumerate_settleTimer (s : State) : (callEnumerate s).settleTimer = s.settleTimer := rfl
@[simp] theorem callEnumerate_readDeadline (s : State) : (callEnumerate s).readDeadline = s.readDeadline := rfl
@[simp] theorem callEnumerate_link (s : State) : (callEnumerate s).link = s.link.enumerate s.params.vid s.params.pid := rfl
@[simp] theorem callEnumerate_port (s : State) : (callEnumerate s).port = s.port := rfl
@[simp] theorem callEnumerate_issuer (s : State) : (callEnumerate s).issuer = s.issuer := rfl
@[simp] theorem callEnumerate_turns (s : State) : (callEnumerate s).turns = s.turns := rfl
@[simp] theorem callEnumerate_cont (s : State) : (callEnumerate s).cont = s.cont := rfl
@[simp] theorem callEnumerate_delivered (s : State) : (callEnumerate s).delivered = s.delivered := rfl
@[simp] theorem callEnumerate_draws (s : State) : (callEnumerate s).draws = s.draws := rfl

/-! ### callOpen -/

@[simp] theorem callOpen_params (d : Nat) (s : State) : (callOpen d s).params = s.params := rfl
@[simp] theorem callOpen_handle (d : Nat) (s : State) : (callOpen d s).handle = s.handle := rfl
@[simp] theorem callOpen_lock (d : Nat) (s : State) : (callOpen d s).lock = s.lock := rfl
@[simp] theorem callOpen_phase (d : Nat) (s : State) : (callOpen d s).phase = s.phase := rfl
@[simp] theorem callOpen_line (d : Nat) (s : State) : (callOpen d s).line = s.line := rfl
@[simp] theorem callOpen_op (d : Nat) (s : State) : (callOpen d s).op = s.op := rfl
@[simp] theorem callOpen_addr (d : Nat) (s : State) : (callOpen d s).addr = s.addr := rfl
@[simp] theorem callOpen_cmd (d : Nat) (s : State) : (callOpen d s).cmd = s.cmd := rfl
@[simp] theorem callOpen_wdata (d : Nat) (s : State) : (callOpen d s).wdata = s.wdata := rfl
@[simp] theorem callOpen_pay (d : Nat) (s : State) : (callOpen d s).pay = s.pay := rfl
@[simp] theorem callOpen_rlen (d : Nat) (s : State) : (callOpen d s).rlen = s.rlen := rfl
@[simp] theorem callOpen_ok (d : Nat) (s : State) : (callOpen d s).ok = s.ok := rfl
@[simp] theorem callOpen_raw (d : Nat) (s : State) : (callOpen d s).raw = s.raw := rfl
@[simp] theorem callOpen_bytes (d : Nat) (s : State) : (callOpen d s).bytes = s.bytes := rfl
@[simp] theorem callOpen_found (d : Nat) (s : State) : (callOpen d s).found = s.found := rfl
@[simp] theorem callOpen_cause (d : Nat) (s : State) : (callOpen d s).cause = s.cause := rfl
@[simp] theorem callOpen_out (d : Nat) (s : State) : (callOpen d s).out = s.out := rfl
@[simp] theorem callOpen_inb (d : Nat) (s : State) : (callOpen d s).inb = s.inb := rfl
@[simp] theorem callOpen_inLen (d : Nat) (s : State) : (callOpen d s).inLen = s.inLen := rfl
@[simp] theorem callOpen_scanPtr (d : Nat) (s : State) : (callOpen d s).scanPtr = s.scanPtr := rfl
@[simp] theorem callOpen_settleTimer (d : Nat) (s : State) : (callOpen d s).settleTimer = s.settleTimer := rfl
@[simp] theorem callOpen_readDeadline (d : Nat) (s : State) : (callOpen d s).readDeadline = s.readDeadline := rfl
@[simp] theorem callOpen_link (d : Nat) (s : State) : (callOpen d s).link = s.link.openDev d := rfl
@[simp] theorem callOpen_port (d : Nat) (s : State) : (callOpen d s).port = s.port := rfl
@[simp] theorem callOpen_issuer (d : Nat) (s : State) : (callOpen d s).issuer = s.issuer := rfl
@[simp] theorem callOpen_turns (d : Nat) (s : State) : (callOpen d s).turns = s.turns := rfl
@[simp] theorem callOpen_cont (d : Nat) (s : State) : (callOpen d s).cont = s.cont := rfl
@[simp] theorem callOpen_delivered (d : Nat) (s : State) : (callOpen d s).delivered = s.delivered := rfl
@[simp] theorem callOpen_draws (d : Nat) (s : State) : (callOpen d s).draws = s.draws := rfl

/-! ### callSetTimeout -/

@[simp] theorem callSetTimeout_params (s : State) : (callSetTimeout s).params = s.params := rfl
@[simp] theorem callSetTimeout_handle (s : State) : (callSetTimeout s).handle = s.handle := rfl
@[simp] theorem callSetTimeout_lock (s : State) : (callSetTimeout s).lock = s.lock := rfl
@[simp] theorem callSetTimeout_phase (s : State) : (callSetTimeout s).phase = s.phase := rfl
@[simp] theorem callSetTimeout_line (s : State) : (callSetTimeout s).line = s.line := rfl
@[simp] theorem callSetTimeout_op (s : State) : (callSetTimeout s).op = s.op := rfl
@[simp] theorem callSetTimeout_addr (s : State) : (callSetTimeout s).addr = s.addr := rfl
@[simp] theorem callSetTimeout_cmd (s : State) : (callSetTimeout s).cmd = s.cmd := rfl
@[simp] theorem callSetTimeout_wdata (s : State) : (callSetTimeout s).wdata = s.wdata := rfl
@[simp] theorem callSetTimeout_pay (s : State) : (callSetTimeout s).pay = s.pay := rfl
@[simp] theorem callSetTimeout_rlen (s : State) : (callSetTimeout s).rlen = s.rlen := rfl
@[simp] theorem callSetTimeout_ok (s : State) : (callSetTimeout s).ok = s.ok := rfl
@[simp] theorem callSetTimeout_raw (s : State) : (callSetTimeout s).raw = s.raw := rfl
@[simp] theorem callSetTimeout_bytes (s : State) : (callSetTimeout s).bytes = s.bytes := rfl
@[simp] theorem callSetTimeout_found (s : State) : (callSetTimeout s).found = s.found := rfl
@[simp] theorem callSetTimeout_cause (s : State) : (callSetTimeout s).cause = s.cause := rfl
@[simp] theorem callSetTimeout_out (s : State) : (callSetTimeout s).out = s.out := rfl
@[simp] theorem callSetTimeout_inb (s : State) : (callSetTimeout s).inb = s.inb := rfl
@[simp] theorem callSetTimeout_inLen (s : State) : (callSetTimeout s).inLen = s.inLen := rfl
@[simp] theorem callSetTimeout_scanPtr (s : State) : (callSetTimeout s).scanPtr = s.scanPtr := rfl
@[simp] theorem callSetTimeout_settleTimer (s : State) : (callSetTimeout s).settleTimer = s.settleTimer := rfl
@[simp] theorem callSetTimeout_readDeadline (s : State) : (callSetTimeout s).readDeadline = s.readDeadline := rfl
@[simp] theorem callSetTimeout_link (s : State) : (callSetTimeout s).link = s.link.setReadTimeout Config.tReadTimeout := rfl
@[simp] theorem callSetTimeout_port (s : State) : (callSetTimeout s).port = s.port := rfl
@[simp] theorem callSetTimeout_issuer (s : State) : (callSetTimeout s).issuer = s.issuer := rfl
@[simp] theorem callSetTimeout_turns (s : State) : (callSetTimeout s).turns = s.turns := rfl
@[simp] theorem callSetTimeout_cont (s : State) : (callSetTimeout s).cont = s.cont := rfl
@[simp] theorem callSetTimeout_delivered (s : State) : (callSetTimeout s).delivered = s.delivered := rfl
@[simp] theorem callSetTimeout_draws (s : State) : (callSetTimeout s).draws = s.draws := rfl

/-! ### connectFailed -/

@[simp] theorem connectFailed_params (s : State) : (connectFailed s).params = s.params := rfl
@[simp] theorem connectFailed_handle (s : State) : (connectFailed s).handle = s.handle := rfl
@[simp] theorem connectFailed_lock (s : State) : (connectFailed s).lock = s.lock := rfl
@[simp] theorem connectFailed_phase (s : State) : (connectFailed s).phase = s.phase := rfl
@[simp] theorem connectFailed_line (s : State) : (connectFailed s).line = s.line := rfl
@[simp] theorem connectFailed_op (s : State) : (connectFailed s).op = s.op := rfl
@[simp] theorem connectFailed_addr (s : State) : (connectFailed s).addr = s.addr := rfl
@[simp] theorem connectFailed_cmd (s : State) : (connectFailed s).cmd = s.cmd := rfl
@[simp] theorem connectFailed_wdata (s : State) : (connectFailed s).wdata = s.wdata := rfl
@[simp] theorem connectFailed_pay (s : State) : (connectFailed s).pay = s.pay := rfl
@[simp] theorem connectFailed_rlen (s : State) : (connectFailed s).rlen = s.rlen := rfl
@[simp] theorem connectFailed_ok (s : State) : (connectFailed s).ok = false := rfl
@[simp] theorem connectFailed_raw (s : State) : (connectFailed s).raw = s.raw := rfl
@[simp] theorem connectFailed_bytes (s : State) : (connectFailed s).bytes = s.bytes := rfl
@[simp] theorem connectFailed_found (s : State) : (connectFailed s).found = s.found := rfl
@[simp] theorem connectFailed_cause (s : State) : (connectFailed s).cause = .notConnected := rfl
@[simp] theorem connectFailed_out (s : State) : (connectFailed s).out = s.out := rfl
@[simp] theorem connectFailed_inb (s : State) : (connectFailed s).inb = s.inb := rfl
@[simp] theorem connectFailed_inLen (s : State) : (connectFailed s).inLen = s.inLen := rfl
@[simp] theorem connectFailed_scanPtr (s : State) : (connectFailed s).scanPtr = s.scanPtr := rfl
@[simp] theorem connectFailed_settleTimer (s : State) : (connectFailed s).settleTimer = s.settleTimer := rfl
@[simp] theorem connectFailed_readDeadline (s : State) : (connectFailed s).readDeadline = s.readDeadline := rfl
@[simp] theorem connectFailed_link (s : State) : (connectFailed s).link = s.link := rfl
@[simp] theorem connectFailed_port (s : State) : (connectFailed s).port = s.port := rfl
@[simp] theorem connectFailed_issuer (s : State) : (connectFailed s).issuer = s.issuer := rfl
@[simp] theorem connectFailed_turns (s : State) : (connectFailed s).turns = s.turns := rfl
@[simp] theorem connectFailed_cont (s : State) : (connectFailed s).cont = s.cont := rfl
@[simp] theorem connectFailed_delivered (s : State) : (connectFailed s).delivered = s.delivered := rfl
@[simp] theorem connectFailed_draws (s : State) : (connectFailed s).draws = s.draws := rfl

/-! ### latchOperands -/

@[simp] theorem latchOperands_params (c : Call) (s : State) : (latchOperands c s).params = s.params := by cases c <;> rfl
@[simp] theorem latchOperands_handle (c : Call) (s : State) : (latchOperands c s).handle = s.handle := by cases c <;> rfl
@[simp] theorem latchOperands_lock (c : Call) (s : State) : (latchOperands c s).lock = s.lock := by cases c <;> rfl
@[simp] theorem latchOperands_phase (c : Call) (s : State) : (latchOperands c s).phase = s.phase := by cases c <;> rfl
@[simp] theorem latchOperands_line (c : Call) (s : State) : (latchOperands c s).line = s.line := by cases c <;> rfl
@[simp] theorem latchOperands_op (c : Call) (s : State) : (latchOperands c s).op = c.op := by cases c <;> rfl
@[simp] theorem latchOperands_pay (c : Call) (s : State) : (latchOperands c s).pay = s.pay := by cases c <;> rfl
@[simp] theorem latchOperands_rlen (c : Call) (s : State) : (latchOperands c s).rlen = s.rlen := by cases c <;> rfl
@[simp] theorem latchOperands_ok (c : Call) (s : State) : (latchOperands c s).ok = s.ok := by cases c <;> rfl
@[simp] theorem latchOperands_raw (c : Call) (s : State) : (latchOperands c s).raw = s.raw := by cases c <;> rfl
@[simp] theorem latchOperands_bytes (c : Call) (s : State) : (latchOperands c s).bytes = s.bytes := by cases c <;> rfl
@[simp] theorem latchOperands_found (c : Call) (s : State) : (latchOperands c s).found = s.found := by cases c <;> rfl
@[simp] theorem latchOperands_cause (c : Call) (s : State) : (latchOperands c s).cause = s.cause := by cases c <;> rfl
@[simp] theorem latchOperands_out (c : Call) (s : State) : (latchOperands c s).out = s.out := by cases c <;> rfl
@[simp] theorem latchOperands_inb (c : Call) (s : State) : (latchOperands c s).inb = s.inb := by cases c <;> rfl
@[simp] theorem latchOperands_inLen (c : Call) (s : State) : (latchOperands c s).inLen = s.inLen := by cases c <;> rfl
@[simp] theorem latchOperands_scanPtr (c : Call) (s : State) : (latchOperands c s).scanPtr = s.scanPtr := by cases c <;> rfl
@[simp] theorem latchOperands_settleTimer (c : Call) (s : State) : (latchOperands c s).settleTimer = s.settleTimer := by cases c <;> rfl
@[simp] theorem latchOperands_readDeadline (c : Call) (s : State) : (latchOperands c s).readDeadline = s.readDeadline := by cases c <;> rfl
@[simp] theorem latchOperands_link (c : Call) (s : State) : (latchOperands c s).link = s.link := by cases c <;> rfl
@[simp] theorem latchOperands_port (c : Call) (s : State) : (latchOperands c s).port = s.port := by cases c <;> rfl
@[simp] theorem latchOperands_issuer (c : Call) (s : State) : (latchOperands c s).issuer = s.issuer := by cases c <;> rfl
@[simp] theorem latchOperands_turns (c : Call) (s : State) : (latchOperands c s).turns = s.turns := by cases c <;> rfl
@[simp] theorem latchOperands_cont (c : Call) (s : State) : (latchOperands c s).cont = s.cont := by cases c <;> rfl
@[simp] theorem latchOperands_delivered (c : Call) (s : State) : (latchOperands c s).delivered = s.delivered := by cases c <;> rfl
@[simp] theorem latchOperands_draws (c : Call) (s : State) : (latchOperands c s).draws = s.draws := by cases c <;> rfl

/-! ### Derived reads -/

theorem connected_def (s : State) : s.connected = s.handle.isSome := rfl

@[simp] theorem answer_eq (r : Result) (s : State) : answer r s = .next (deliver s.issuer r s) := rfl

@[simp] theorem scanAddr_def (s : State) : scanAddr s = s.scanPtr.setWidth 7 := rfl

end Sys2Proof.Machine
end

