-- ==== Sys2Proof/Laws/Exchange.lean ====
section
/-! SUPPORT. What each half of an exchange does (42_framer.md R124, R125), said once in terms of LINK's answer. -/

namespace Sys2Proof.Machine

/-- The state with a write report built and handed to LINK (R124). -/
def handedWrite (a : Addr) (pay : List Byte) (s : State) : State :=
  { setOut (frameW s.params a pay) { s with pay := pay } with link := s.link.hidWrite (frameW s.params a pay) }

/-- The state with a read report built and handed to LINK (R125). -/
def handedRead (a : Addr) (n : Nat) (s : State) : State :=
  { setOut (frameR s.params a (BitVec.ofNat 8 n)) { s with rlen := BitVec.ofNat 8 n } with
    link := s.link.hidWrite (frameR s.params a (BitVec.ofNat 8 n)) }

/-- The state after HidRead has been called (R124, R125). -/
def answered (s : State) : State := { s with link := s.link.hidRead s.params.lIn, readDeadline := none }

theorem sendWrite_tooLong {a : Addr} {pay : List Byte} {s : State} (h : Config.maxPayload < pay.length) :
    sendWrite a pay s = (false, { s with cause := .payloadTooLarge }) := by
  simp [sendWrite, h]

theorem sendWrite_ok {a : Addr} {pay : List Byte} {s : State} (h : pay.length ≤ Config.maxPayload)
    (hw : s.link.nextWrite = .ok) :
    sendWrite a pay s =
      (true, { handedWrite a pay s with phase := .wSent, readDeadline := s.handle.map Handle.readTimeout }) := by
  have ho := outBytes_frameW a pay { s with pay := pay } h
  simp only [sendWrite, Nat.not_lt.mpr h, if_false, setOut_link, hw, handedWrite]
  rw [ho]
  rfl

theorem sendWrite_error {a : Addr} {pay : List Byte} {s : State} (h : pay.length ≤ Config.maxPayload)
    (hw : s.link.nextWrite = .error) :
    sendWrite a pay s = (false, { handedWrite a pay s with cause := .linkError }) := by
  have ho := outBytes_frameW a pay { s with pay := pay } h
  simp only [sendWrite, Nat.not_lt.mpr h, if_false, setOut_link, hw, handedWrite]
  rw [ho]

theorem sendRead_tooLong {a : Addr} {n : Nat} {s : State} (h : Config.maxPayload < n) :
    sendRead a n s = (false, { s with cause := .payloadTooLarge }) := by
  simp [sendRead, h]

theorem sendRead_ok {a : Addr} {n : Nat} {s : State} (h : n ≤ Config.maxPayload) (hw : s.link.nextWrite = .ok) :
    sendRead a n s =
      (true, { handedRead a n s with phase := .rSent, readDeadline := s.handle.map Handle.readTimeout }) := by
  have ho := outBytes_frameR a (BitVec.ofNat 8 n) { s with rlen := BitVec.ofNat 8 n }
  simp only [sendRead, Nat.not_lt.mpr h, if_false, setOut_link, hw, handedRead]
  rw [ho]
  rfl

theorem sendRead_error {a : Addr} {n : Nat} {s : State} (h : n ≤ Config.maxPayload) (hw : s.link.nextWrite = .error) :
    sendRead a n s = (false, { handedRead a n s with cause := .linkError }) := by
  have ho := outBytes_frameR a (BitVec.ofNat 8 n) { s with rlen := BitVec.ofNat 8 n }
  simp only [sendRead, Nat.not_lt.mpr h, if_false, setOut_link, hw, handedRead]
  rw [ho]

/-- XWRITE's response (R124): the ack byte decides. -/
theorem recvAck_eq (s : State) :
    recvAck s =
      match s.link.nextRead s.params.lIn with
      | .timeout => (false, { answered s with cause := .timeout })
      | .error => (false, { answered s with cause := .linkError })
      | .report r =>
        if parseAck r then (true, setIn r (answered s))
        else (false, { setIn r (answered s) with cause := .shortOrMalformedResponse }) := by
  simp only [recvAck, receive, answered]
  cases s.link.nextRead s.params.lIn <;> simp

/-- XREAD's response (R125): the data bytes of PARSERD. -/
theorem recvData_eq (s : State) :
    recvData s =
      match s.link.nextRead s.params.lIn with
      | .timeout => (none, { answered s with cause := .timeout })
      | .error => (none, { answered s with cause := .linkError })
      | .report r =>
        match parseRd r with
        | some d => (some d, setIn r (answered s))
        | none => (none, { setIn r (answered s) with cause := .shortOrMalformedResponse }) := by
  simp only [recvData, receive, answered]
  cases s.link.nextRead s.params.lIn with
  | timeout => rfl
  | error => rfl
  | report r =>
    cases h : parseRd r <;> simp [h]

/-- An exchange LINK does not take has no HidRead (R124). -/
theorem xwrite_refused {a : Addr} {pay : List Byte} {s : State} (h : pay.length ≤ Config.maxPayload)
    (hw : s.link.nextWrite = .error) :
    xwrite a pay s = (false, { handedWrite a pay s with cause := .linkError }) := by
  simp only [xwrite, sendWrite_error h hw]

/-- An exchange LINK takes goes on to HidRead (R124). -/
theorem xwrite_taken {a : Addr} {pay : List Byte} {s : State} (h : pay.length ≤ Config.maxPayload)
    (hw : s.link.nextWrite = .ok) :
    xwrite a pay s =
      recvAck { handedWrite a pay s with phase := .wSent, readDeadline := s.handle.map Handle.readTimeout } := by
  simp only [xwrite, sendWrite_ok h hw]

theorem xread_refused {a : Addr} {n : Nat} {s : State} (h : n ≤ Config.maxPayload) (hw : s.link.nextWrite = .error) :
    xread a n s = (none, { handedRead a n s with cause := .linkError }) := by
  simp only [xread, sendRead_error h hw]

theorem xread_taken {a : Addr} {n : Nat} {s : State} (h : n ≤ Config.maxPayload) (hw : s.link.nextWrite = .ok) :
    xread a n s =
      recvData { handedRead a n s with phase := .rSent, readDeadline := s.handle.map Handle.readTimeout } := by
  simp only [xread, sendRead_ok h hw]

end Sys2Proof.Machine
end

