-- ==== Sys2Proof/Laws/Calls.lean ====
section
/-! SUPPORT. What issuing a transport operation answers (R31, R41, R140), what the dispatch calls, and what a step does with the next
request of the port. -/

namespace Sys2Proof.Machine

/-- An address outside the range is refused whatever the state (R31). -/
theorem runCall_badAddress {c : Call} {k : Cont} {s : State} (h : callOk c = false) :
    runCall c k s = .refused (.addressOutOfRange (callAddr c)) := by
  simp [runCall, h]

/-- With the lock held the operation has not started (R41). -/
theorem runCall_waits {c : Call} {k : Cont} {s : State} (h : callOk c = true) (hl : s.lock ≠ .free) :
    runCall c k s = .next s := by
  simp [runCall, h, hl]

/-- An operation that is neither refused nor waiting runs to its end (R36, R151). -/
theorem runCall_runs {c : Call} {k : Cont} {s : State} (h : callOk c = true) (hl : s.lock = .free)
    (hr : refusesReconnect c s = false) : runCall c k s = .next (performCall c k s) := by
  simp [runCall, h, hl, hr]

/-- A call other than CONNECT is never turned away for being connected. -/
theorem refusesReconnect_of_ne {c : Call} (s : State) (h : c.op ≠ .connect) : refusesReconnect c s = false := by
  simp [refusesReconnect, h]

/-- An operation on its own gives its agent the result latch (R16). -/
theorem performCall_plain (c : Call) (s : State) :
    performCall c .plain s = deliver s.issuer (latchedResult (operate c .plain s)) (operate c .plain s) := rfl

/-- A prologue that finds no handle ends the operation at once (R140). -/
theorem runBody_notConnected {s : State} (h : needsHandle s.op = true) (hc : s.connected = false) :
    runBody s = raise .notConnected s := by
  simp [runBody, h, hc]

theorem runBody_runs {s : State} (h : needsHandle s.op = false ∨ s.connected = true) :
    runBody s = finish (bodyOf s.op s) := by
  rcases h with h | h <;> simp [runBody, h]

/-- With no interleaving given and nothing in progress, a step takes the oldest request. -/
theorem step_takes_request {s : State} {p : Pending} {rest : List Pending} (ht : s.turns = []) (hp : s.phase = .idle)
    (hq : s.port = p :: rest) : step s = serve p rest s := by
  simp [step, nextStep, stepAlone, ht, hp, hq]

/-- With nothing to do the block waits (R220). -/
theorem step_waits_in_idle {s : State} (ht : s.turns = []) (hp : s.phase = .idle) (hq : s.port = []) :
    step s = .next s := by
  simp [step, nextStep, stepAlone, ht, hp, hq]

/-- The SEQUENCER's turn is one of its steps. -/
theorem step_sequencer {s : State} {ts : List Turn} (ht : s.turns = .sequencer :: ts) :
    step s = seqStep { s with turns := ts } := by
  simp [step, nextStep, ht]

/-- A HOST agent's turn issues its oldest request. -/
theorem step_host {s : State} {h : Nat} {ts : List Turn} (ht : s.turns = .host h :: ts) :
    step s = hostTurn h { s with turns := ts } := by
  simp [step, nextStep, ht]

/-- A HOST agent whose own operation is in progress waits for its result (R10, R40). -/
theorem hostTurn_waits {h : Nat} {s : State} (hl : s.lock = .held h) : hostTurn h s = .next s := by
  simp [hostTurn, hl]

/-- A HOST agent with no operation in progress takes its oldest instruction. -/
theorem hostTurn_request {h : Nat} {s : State} {f : Fmt} {bs : List Byte} {rest : List Pending} {i : Instr}
    (hl : s.lock ≠ .held h) (ht : takeFirst h s.port = some (.request f bs, rest)) (hd : decode f bs = .ok i) :
    hostTurn h s = if mustWait i s then .next s else issue i { s with port := rest, issuer := h } := by
  simp [hostTurn, hl, ht, hd]

/-- A line that belongs to the operation and to PHASE is taken (R10). -/
theorem seqStep_runs {s : State} (hf : s.line.fits s.op = true) (hp : s.line.inPhase s.phase = true) :
    seqStep s = .next (runLine s) := by
  simp [seqStep, hf, hp]

/-- All that a step of the SEQUENCER can do: the line's own effect, and only where the line belongs. -/
theorem seqStep_next {s t : State} (h : seqStep s = .next t) :
    s.line.fits s.op = true ∧ s.line.inPhase s.phase = true ∧ t = runLine s := by
  unfold seqStep at h
  split at h
  · rename_i hc
    rw [Bool.and_eq_true] at hc
    cases h
    exact ⟨hc.1, hc.2, rfl⟩
  · cases h

/-- The SEQUENCER at rest stays at rest. -/
theorem runToIdle_idle {n : Nat} {s : State} (h : s.phase = .idle) : runToIdle n s = .next s := by
  cases n <;> simp [runToIdle, h]

/-- One step of the SEQUENCER, then the rest. -/
theorem runToIdle_step {n : Nat} {s t : State} (h : s.phase ≠ .idle) (hs : seqStep s = .next t) :
    runToIdle (n + 1) s = runToIdle n t := by
  simp [runToIdle, h, hs]

end Sys2Proof.Machine
end

