-- ==== Sys2Proof/Laws/PerInstr.lean ====
section
/-! SUPPORT. Family TableRow: the encoder's bytes match the opcode table's row of the instruction. -/

namespace Sys2Proof.Laws.TableRow

/-- The row of spec/opcode_table.json: its format, and its mask and match as bytes in the order the encoder writes them
(reports in wire order, 16-bit words low byte first). The row HID.RESP shows only the success case of a total format
and has no pattern here. -/
def row : Instr → Fmt × List (Byte × Byte)
  | .connect => (.opsel, [(0x1F, 0x00)])
  | .disconnect => (.opsel, [(0x1F, 0x01)])
  | .isconn => (.opsel, [(0x1F, 0x02)])
  | .scan => (.opsel, [(0x1F, 0x03)])
  | .sendbyte _ _ => (.opsel, [(0x1F, 0x04)])
  | .readword _ _ => (.opsel, [(0x1F, 0x05)])
  | .writeword _ _ _ => (.opsel, [(0x1F, 0x06)])
  | .blockread _ _ => (.opsel, [(0x1F, 0x07)])
  | .l11dec _ => (.opsel, [(0x1F, 0x10)])
  | .l11enc _ => (.opsel, [(0x1F, 0x11)])
  | .l16dec _ _ => (.opsel, [(0x1F, 0x12)])
  | .stsdec _ => (.opsel, [(0x1F, 0x13)])
  | .ascdec _ => (.opsel, [(0x1F, 0x14)])
  | .bcdrev _ => (.opsel, [(0x1F, 0x15)])
  | .vmexp _ => (.opsel, [(0x1F, 0x16)])
  | .rawnum _ => (.opsel, [(0x1F, 0x17)])
  | .reservedLow _ => (.opsel, [(0x18, 0x08)])
  | .reservedHigh _ => (.opsel, [(0x18, 0x18)])
  | .hidWrite _ _ => (.hidw, [(0xFF, 0x00), (0xFF, 0x57), (0x01, 0x00), (0x00, 0x00)])
  | .hidRead _ _ => (.hidr, [(0xFF, 0x00), (0xFF, 0x52), (0x01, 0x01), (0x00, 0x00)])
  | .hidResp _ => (.hidi, [])
  | .scanProbe _ => (.hidw, [(0xFF, 0x00), (0xFF, 0x57), (0x01, 0x00), (0xFF, 0x00)])
  | .sendbyteReport _ _ => (.hidw, [(0xFF, 0x00), (0xFF, 0x57), (0x01, 0x00), (0xFF, 0x01), (0x00, 0x00)])
  | .writewordReport _ _ _ => (.hidw, [(0xFF, 0x00), (0xFF, 0x57), (0x01, 0x00), (0xFF, 0x03), (0x00, 0x00), (0x00, 0x00), (0x00, 0x00)])
  | .readwordReadphase _ => (.hidr, [(0xFF, 0x00), (0xFF, 0x52), (0x01, 0x01), (0xFF, 0x02)])
  | .blockreadReadphase _ => (.hidr, [(0xFF, 0x00), (0xFF, 0x52), (0x01, 0x01), (0xFF, 0x21)])
  | .l11Word _ => (.l11, [])
  | .l11encResult _ => (.l11, [(0x00, 0x00), (0xF8, 0xF0)])
  | .voutModeWord _ => (.vm, [])
  | .l16Word _ => (.l16, [])
  | .statusWordWord _ => (.sw, [])
  | .pmbusRevisionWord _ => (.rev, [])
  | .operation _ => (.cmd, [(0xFF, 0x01)])
  | .clearFaults _ => (.cmd, [(0xFF, 0x03)])
  | .voutMode _ => (.cmd, [(0xFF, 0x20)])
  | .voutCommand => (.cmd, [(0xFF, 0x21)])
  | .voutOvFaultLimit _ _ => (.cmd, [(0xFF, 0x40)])
  | .ioutOcFaultLimit _ _ => (.cmd, [(0xFF, 0x46)])
  | .otFaultLimit _ _ => (.cmd, [(0xFF, 0x4F)])
  | .statusWord _ => (.cmd, [(0xFF, 0x79)])
  | .readVin _ => (.cmd, [(0xFF, 0x88)])
  | .readVout _ => (.cmd, [(0xFF, 0x8B)])
  | .readIout _ => (.cmd, [(0xFF, 0x8C)])
  | .readTemperature1 _ => (.cmd, [(0xFF, 0x8D)])
  | .pmbusRevision _ => (.cmd, [(0xFF, 0x98)])
  | .mfrId _ => (.cmd, [(0xFF, 0x99)])
  | .mfrModel _ => (.cmd, [(0xFF, 0x9A)])
  | .mfrRevision _ => (.cmd, [(0xFF, 0x9B)])
  | .mfrSerial _ => (.cmd, [(0xFF, 0x9E)])

/-- Each byte agrees with its mask and match. -/
def Agrees : List (Byte × Byte) → List Byte → Prop
  | [], _ => True
  | _ :: _, [] => False
  | (m, v) :: ps, b :: bs => b &&& m = v ∧ Agrees ps bs

/-- The instruction's encoding is in its row's format and agrees with its row's mask and match. -/
def Statement (i : Instr) : Prop := (encode i).1 = (row i).1 ∧ Agrees (row i).2 (encode i).2

theorem addrByteW_bit0 (a : Addr) : Machine.addrByteW a &&& 0x01#8 = 0x00#8 := by revert a; decide

theorem addrByteR_bit0 (a : Addr) : Machine.addrByteR a &&& 0x01#8 = 0x01#8 := by revert a; decide

theorem reservedLow_bits (k : BitVec 3) : (0b00001#5 ++ k) &&& 0x18#8 = 0x08#8 := by revert k; decide

theorem reservedHigh_bits (k : BitVec 3) : (0b00011#5 ++ k) &&& 0x18#8 = 0x18#8 := by revert k; decide

theorem length_byte_one (c : Byte) : BitVec.ofNat 8 [c].length &&& 0xFF#8 = 0x01#8 := by
  show BitVec.ofNat 8 1 &&& 0xFF#8 = 0x01#8
  decide

theorem length_byte_three (c : Byte) (v : Word) :
    BitVec.ofNat 8 (c :: Machine.le16 v).length &&& 0xFF#8 = 0x03#8 := by
  show BitVec.ofNat 8 3 &&& 0xFF#8 = 0x03#8
  decide

theorem l11enc_high_byte (y : BitVec 11) :
    (Machine.l11Pack Config.l11encExp y).extractLsb' 8 8 &&& 0xF8#8 = 0xF0#8 := by
  apply BitVec.eq_of_getElem_eq
  intro i hi
  have hp : ∀ j, (Machine.l11Pack Config.l11encExp y).getLsbD j =
      if j < 11 then y.getLsbD j else (30#5).getLsbD (j - 11) := fun j => BitVec.getLsbD_append
  rw [BitVec.getElem_and, BitVec.getElem_extractLsb', hp]
  interval_cases i <;> simp

theorem connect : Statement .connect := ⟨rfl, rfl, trivial⟩
theorem disconnect : Statement .disconnect := ⟨rfl, rfl, trivial⟩
theorem isconn : Statement .isconn := ⟨rfl, rfl, trivial⟩
theorem scan : Statement .scan := ⟨rfl, rfl, trivial⟩
theorem sendbyte (a : Addr) (c : Byte) : Statement (.sendbyte a c) := ⟨rfl, rfl, trivial⟩
theorem readword (a : Addr) (c : Byte) : Statement (.readword a c) := ⟨rfl, rfl, trivial⟩
theorem writeword (a : Addr) (c : Byte) (v : Word) : Statement (.writeword a c v) := ⟨rfl, rfl, trivial⟩
theorem blockread (a : Addr) (c : Byte) : Statement (.blockread a c) := ⟨rfl, rfl, trivial⟩
theorem l11dec (w : Word) : Statement (.l11dec w) := ⟨rfl, rfl, trivial⟩
theorem l11enc (val : F64) : Statement (.l11enc val) := ⟨rfl, rfl, trivial⟩
theorem l16dec (w : Word) (vm : Word) : Statement (.l16dec w vm) := ⟨rfl, rfl, trivial⟩
theorem stsdec (w : Word) : Statement (.stsdec w) := ⟨rfl, rfl, trivial⟩
theorem ascdec (b : List Byte) : Statement (.ascdec b) := ⟨rfl, rfl, trivial⟩
theorem bcdrev (w : Word) : Statement (.bcdrev w) := ⟨rfl, rfl, trivial⟩
theorem vmexp (vm : Word) : Statement (.vmexp vm) := ⟨rfl, rfl, trivial⟩
theorem rawnum (w : Word) : Statement (.rawnum w) := ⟨rfl, rfl, trivial⟩
theorem reservedLow (k : BitVec 3) : Statement (.reservedLow k) := ⟨rfl, reservedLow_bits k, trivial⟩
theorem reservedHigh (k : BitVec 3) : Statement (.reservedHigh k) := ⟨rfl, reservedHigh_bits k, trivial⟩
theorem hidWrite (a : Addr) (pay : List Byte) : Statement (.hidWrite a pay) := ⟨rfl, rfl, rfl, addrByteW_bit0 a, BitVec.and_zero, trivial⟩
theorem hidRead (a : Addr) (n : Byte) : Statement (.hidRead a n) := ⟨rfl, rfl, rfl, addrByteR_bit0 a, BitVec.and_zero, trivial⟩
theorem hidResp (r : List Byte) : Statement (.hidResp r) := ⟨rfl, trivial⟩
theorem scanProbe (a : Addr) : Statement (.scanProbe a) := ⟨rfl, rfl, rfl, addrByteW_bit0 a, rfl, trivial⟩
theorem sendbyteReport (a : Addr) (c : Byte) : Statement (.sendbyteReport a c) := ⟨rfl, rfl, rfl, addrByteW_bit0 a, length_byte_one c, BitVec.and_zero, trivial⟩
theorem writewordReport (a : Addr) (c : Byte) (v : Word) : Statement (.writewordReport a c v) := ⟨rfl, rfl, rfl, addrByteW_bit0 a, length_byte_three c v, BitVec.and_zero, BitVec.and_zero, BitVec.and_zero, trivial⟩
theorem readwordReadphase (a : Addr) : Statement (.readwordReadphase a) := ⟨rfl, rfl, rfl, addrByteR_bit0 a, rfl, trivial⟩
theorem blockreadReadphase (a : Addr) : Statement (.blockreadReadphase a) := ⟨rfl, rfl, rfl, addrByteR_bit0 a, rfl, trivial⟩
theorem l11Word (w : Word) : Statement (.l11Word w) := ⟨rfl, trivial⟩
theorem l11encResult (y : BitVec 11) : Statement (.l11encResult y) := ⟨rfl, BitVec.and_zero, l11enc_high_byte y, trivial⟩
theorem voutModeWord (w : Word) : Statement (.voutModeWord w) := ⟨rfl, trivial⟩
theorem l16Word (w : Word) : Statement (.l16Word w) := ⟨rfl, trivial⟩
theorem statusWordWord (w : Word) : Statement (.statusWordWord w) := ⟨rfl, trivial⟩
theorem pmbusRevisionWord (w : Word) : Statement (.pmbusRevisionWord w) := ⟨rfl, trivial⟩
theorem operation (a : Addr) : Statement (.operation a) := ⟨rfl, rfl, trivial⟩
theorem clearFaults (a : Addr) : Statement (.clearFaults a) := ⟨rfl, rfl, trivial⟩
theorem voutMode (a : Addr) : Statement (.voutMode a) := ⟨rfl, rfl, trivial⟩
theorem voutCommand : Statement .voutCommand := ⟨rfl, rfl, trivial⟩
theorem voutOvFaultLimit (a : Addr) (acc : LimitAccess) : Statement (.voutOvFaultLimit a acc) := ⟨rfl, rfl, trivial⟩
theorem ioutOcFaultLimit (a : Addr) (acc : LimitAccess) : Statement (.ioutOcFaultLimit a acc) := ⟨rfl, rfl, trivial⟩
theorem otFaultLimit (a : Addr) (acc : LimitAccess) : Statement (.otFaultLimit a acc) := ⟨rfl, rfl, trivial⟩
theorem statusWord (a : Addr) : Statement (.statusWord a) := ⟨rfl, rfl, trivial⟩
theorem readVin (a : Addr) : Statement (.readVin a) := ⟨rfl, rfl, trivial⟩
theorem readVout (a : Addr) : Statement (.readVout a) := ⟨rfl, rfl, trivial⟩
theorem readIout (a : Addr) : Statement (.readIout a) := ⟨rfl, rfl, trivial⟩
theorem readTemperature1 (a : Addr) : Statement (.readTemperature1 a) := ⟨rfl, rfl, trivial⟩
theorem pmbusRevision (a : Addr) : Statement (.pmbusRevision a) := ⟨rfl, rfl, trivial⟩
theorem mfrId (a : Addr) : Statement (.mfrId a) := ⟨rfl, rfl, trivial⟩
theorem mfrModel (a : Addr) : Statement (.mfrModel a) := ⟨rfl, rfl, trivial⟩
theorem mfrRevision (a : Addr) : Statement (.mfrRevision a) := ⟨rfl, rfl, trivial⟩
theorem mfrSerial (a : Addr) : Statement (.mfrSerial a) := ⟨rfl, rfl, trivial⟩

end Sys2Proof.Laws.TableRow
end

