-- ==== Sys2Proof/Tests/Slice0.lean ====
section
/-! SUPPORT. The model's own tests. Expected values are the spec's: the encodings of 30_encoding.md, the vectors and programs of
95_test_vectors.md, or hand calculation from the rule named. After them, for each statement with hypotheses, a witness
that meets them. -/

namespace Sys2Proof.Tests

open Sys2Proof Sys2Proof.Machine

/-! ## Helpers -/

/-- A block with a handle and LINK's answers to the next reports. -/
def linked (ws : List LinkStatus) (rs : List ReadAnswer) : State :=
  { State.reset with
    handle := some ⟨0, 300⟩
    link := { Link.unscripted with writes := ws, reads := rs } }

/-- What a next state shows. -/
def after {α : Type} (o : Out) (f : State → α) : Option α :=
  match o with
  | .next t => some (f t)
  | .fault _ => none
  | .refused _ => none

/-- The result delivered last. -/
def result (o : Out) : Option Result := (after o fun t => t.delivered.head?.map Delivery.result).join

/-- The refusal answered. -/
def refusal : Out → Option Refusal
  | .next _ => none
  | .fault _ => none
  | .refused r => some r

/-- `n` free bytes of a payload. -/
def bytes (n : Nat) : List Byte := List.replicate n 0x55

/-- LINK acknowledges a write report, then answers a read report with `r`. -/
def answering (r : List Byte) : State := linked [.ok, .ok] [.report [0x01, 0x00], .report r]

/-! ## Well-formedness: an ill-formed term for each check, and the boundary it leaves in (R31, R51, R52, R57, R83, R102) -/

theorem test_wf_address_below : (Instr.sendbyte 0x07 0x03).wellFormed = false := by decide
theorem test_wf_address_above : (Instr.readword 0x78 0x79).wellFormed = false := by decide
theorem test_wf_address_writeword : (Instr.writeword 0x00 0x01 0x0080).wellFormed = false := by decide
theorem test_wf_address_blockread : (Instr.blockread 0x7F 0x99).wellFormed = false := by decide
theorem test_wf_address_bounds :
    (Instr.sendbyte 0x08 0x03).wellFormed = true ∧ (Instr.sendbyte 0x77 0x03).wellFormed = true := by decide
theorem test_wf_address_catalogue :
    ∀ i ∈ [Instr.operation 0x07, .clearFaults 0x07, .voutMode 0x07, .voutOvFaultLimit 0x07 .read,
      .ioutOcFaultLimit 0x07 .read, .otFaultLimit 0x07 .read, .statusWord 0x07, .readVin 0x07, .readVout 0x07,
      .readIout 0x07, .readTemperature1 0x07, .pmbusRevision 0x07, .mfrId 0x07, .mfrModel 0x07, .mfrRevision 0x07,
      .mfrSerial 0x07], i.wellFormed = false := by decide
theorem test_wf_empty_block : (Instr.ascdec []).wellFormed = false := by decide
theorem test_wf_payload_too_long : (Instr.hidWrite 0x40 (bytes 256)).wellFormed = false := by decide +kernel
theorem test_wf_payload_longest : (Instr.hidWrite 0x40 (bytes 255)).wellFormed = true := by decide +kernel
theorem test_wf_payload_shaped :
    (Instr.hidWrite 0x40 (bytes 0)).wellFormed = false ∧ (Instr.hidWrite 0x40 (bytes 1)).wellFormed = false ∧
    (Instr.hidWrite 0x40 (bytes 2)).wellFormed = true ∧ (Instr.hidWrite 0x40 (bytes 3)).wellFormed = false := by decide
theorem test_wf_read_shaped :
    (Instr.hidRead 0x40 2).wellFormed = false ∧ (Instr.hidRead 0x40 33).wellFormed = false ∧
    (Instr.hidRead 0x40 0).wellFormed = true ∧ (Instr.hidRead 0x40 61).wellFormed = true := by decide
theorem test_wf_l11_word : (Instr.l11Word 0xF154).wellFormed = false ∧ (Instr.l11Word 0xEB20).wellFormed = true := by
  decide

/-! ## Decoding: a word written out from the spec's encoding for every constructor. OPSEL R65, reports R51 to R53 and R57, words
R58 to R63, codes R64; the operand bytes beside an OPSEL or a code are log 1's. -/

theorem test_decode_transport :
    decode .opsel [0b00000000] = .ok .connect ∧
    decode .opsel [0b00000001] = .ok .disconnect ∧
    decode .opsel [0b00000010] = .ok .isconn ∧
    decode .opsel [0b00000011] = .ok .scan ∧
    decode .opsel [0b00000100, 0x38, 0x03] = .ok (.sendbyte 0x40 0x03) ∧
    decode .opsel [0b00000101, 0x38, 0x8B] = .ok (.readword 0x40 0x8B) ∧
    decode .opsel [0b00000110, 0x38, 0x01, 0x80, 0x00] = .ok (.writeword 0x40 0x01 0x0080) ∧
    decode .opsel [0b00000111, 0x38, 0x99] = .ok (.blockread 0x40 0x99) := by decide

theorem test_decode_codec :
    decode .opsel [0b00010000, 0x32, 0xF0] = .ok (.l11dec 0xF032) ∧
    decode .opsel [0b00010001, 0, 0, 0, 0, 0, 0x40, 0x55, 0x40] = .ok (.l11enc 0x4055400000000000) ∧
    decode .opsel [0b00010010, 0x00, 0x1A, 0x17, 0x00] = .ok (.l16dec 0x1A00 0x0017) ∧
    decode .opsel [0b00010011, 0x42, 0x08] = .ok (.stsdec 0x0842) ∧
    decode .opsel [0b00010100, 0x03, 0x41, 0x43, 0x4D] = .ok (.ascdec [0x03, 0x41, 0x43, 0x4D]) ∧
    decode .opsel [0b00010101, 0x22, 0x00] = .ok (.bcdrev 0x0022) ∧
    decode .opsel [0b00010110, 0x17, 0x00] = .ok (.vmexp 0x0017) ∧
    decode .opsel [0b00010111, 0x42, 0x08] = .ok (.rawnum 0x0842) := by decide

theorem test_decode_reserved :
    decode .opsel [0b00001000] = .ok (.reservedLow 0) ∧ decode .opsel [0b00001111] = .ok (.reservedLow 7) ∧
    decode .opsel [0b00011000] = .ok (.reservedHigh 0) ∧ decode .opsel [0b00011111] = .ok (.reservedHigh 7) := by
  decide

theorem test_decode_reports :
    decode .hidw [0x00, 0x57, 0b10000000, 0x02, 0x4F, 0x54] = .ok (.hidWrite 0x40 [0x4F, 0x54]) ∧
    decode .hidr [0x00, 0x52, 0b10000001, 0x3C] = .ok (.hidRead 0x40 60) ∧
    decode .hidi [0x01, 0x02, 0x00, 0x1A] = .ok (.hidResp [0x01, 0x02, 0x00, 0x1A]) ∧
    decode .hidw [0x00, 0x57, 0b00010000, 0x00] = .ok (.scanProbe 0x08) ∧
    decode .hidw [0x00, 0x57, 0b10000000, 0x01, 0x03] = .ok (.sendbyteReport 0x40 0x03) ∧
    decode .hidw [0x00, 0x57, 0b10000000, 0x03, 0x4F, 0x54, 0xF1] = .ok (.writewordReport 0x40 0x4F 0xF154) ∧
    decode .hidr [0x00, 0x52, 0b10000001, 0x02] = .ok (.readwordReadphase 0x40) ∧
    decode .hidr [0x00, 0x52, 0b11101111, 0x21] = .ok (.blockreadReadphase 0x77) := by decide

theorem test_decode_words :
    decode .l11 [0x20, 0b11101011] = .ok (.l11Word 0xEB20) ∧
    decode .l11 [0x54, 0b11110001] = .ok (.l11encResult 0b00101010100) ∧
    decode .vm [0x17, 0x00] = .ok (.voutModeWord 0x0017) ∧
    decode .l16 [0x00, 0x1A] = .ok (.l16Word 0x1A00) ∧
    decode .sw [0x42, 0x08] = .ok (.statusWordWord 0x0842) ∧
    decode .rev [0x22, 0x00] = .ok (.pmbusRevisionWord 0x0022) := by decide

theorem test_decode_catalogue :
    decode .cmd [0x01, 0x38] = .ok (.operation 0x40) ∧
    decode .cmd [0x03, 0x38] = .ok (.clearFaults 0x40) ∧
    decode .cmd [0x20, 0x38] = .ok (.voutMode 0x40) ∧
    decode .cmd [0x21] = .ok .voutCommand ∧
    decode .cmd [0x40, 0x38, 0x00] = .ok (.voutOvFaultLimit 0x40 .read) ∧
    decode .cmd [0x46, 0x38, 0x00] = .ok (.ioutOcFaultLimit 0x40 .read) ∧
    decode .cmd [0x4F, 0x38, 0x01, 0, 0, 0, 0, 0, 0x40, 0x55, 0x40] =
      .ok (.otFaultLimit 0x40 (.write 0x4055400000000000)) ∧
    decode .cmd [0x79, 0x38] = .ok (.statusWord 0x40) ∧
    decode .cmd [0x88, 0x38] = .ok (.readVin 0x40) ∧
    decode .cmd [0x8B, 0x38] = .ok (.readVout 0x40) ∧
    decode .cmd [0x8C, 0x38] = .ok (.readIout 0x40) ∧
    decode .cmd [0x8D, 0x38] = .ok (.readTemperature1 0x40) ∧
    decode .cmd [0x98, 0x38] = .ok (.pmbusRevision 0x40) ∧
    decode .cmd [0x99, 0x38] = .ok (.mfrId 0x40) ∧
    decode .cmd [0x9A, 0x38] = .ok (.mfrModel 0x40) ∧
    decode .cmd [0x9B, 0x38] = .ok (.mfrRevision 0x40) ∧
    decode .cmd [0x9E, 0x38] = .ok (.mfrSerial 0x40) := by decide

theorem test_decode_rejects :
    decode .opsel [] = .rejected .truncated ∧ decode .opsel [0x20] = .rejected .opsel ∧
    decode .opsel [0x05, 0x38] = .rejected .operands ∧ decode .cmd [0xD0, 0x38] = .rejected .code ∧
    decode .hidw [0x00, 0x52, 0x80, 0x00] = .rejected .header ∧
    decode .hidw [0x00, 0x57, 0x81, 0x00] = .rejected .direction ∧
    decode .hidr [0x00, 0x57, 0x81, 0x3D] = .rejected .header ∧
    decode .hidw [0x00, 0x57, 0x80, 0x02, 0x4F] = .rejected .truncated := by decide

/-- LEN and RLEN above 60 are decoded (R66d). -/
theorem test_decode_overlong :
    decode .hidr [0x00, 0x52, 0x81, 0x3D] = .ok (.hidRead 0x40 61) ∧
    decode .hidw ([0x00, 0x57, 0x80, 0x3D] ++ bytes 60) = .ok (.hidWrite 0x40 (bytes 60 ++ [0x00])) := by decide

/-- Numbers as spec/opcode_table.json writes them. -/
theorem test_decode_table_words :
    decodeTableWord 8 0x05 = some (.readword 0x08 0x00) ∧
    decodeTableWord 8 0x1F = some (.reservedHigh 7) ∧
    decodeTableWord 8 0x8B = some (.readVout 0x08) ∧
    decodeTableWord 32 0x00520121 = some (.blockreadReadphase 0x00) ∧
    decodeTableWord 40 0x0057000100 = some (.sendbyteReport 0x00 0x00) ∧
    decodeTableWord 16 0xF000 = some (.l11encResult 0) ∧
    decodeTableWord 16 0x0100 = some (.hidResp [0x01, 0x00]) := by decide

theorem test_encode_addresses :
    encode (.readword 0x77 0x8B) = (.opsel, [0x05, 0x6F, 0x8B]) ∧
    encode (.blockreadReadphase 0x77) = (.hidr, [0x00, 0x52, 0xEF, 0x21]) := by decide

/-! ## Steps: the vectors of 95_test_vectors.md -/

theorem test_step_isconn_reset : result (step (State.reset.withFetchWord 8 0x02)) = some (.flag false) := by decide
theorem test_step_scan_not_connected :
    after (step (State.reset.withFetchWord 8 0x03)) (fun t => (t.found, t.cause, t.phase)) =
      some ([], .notConnected, .idle) := by decide
/-- R66 (d), R194: a read report with RLEN 61 and a write report with LEN 61, as steps. -/
theorem test_step_overlong :
    after (step (State.reset.withFetchWord 32 0x0052813D)) (fun t => (t.cause, t.out, t.link.traffic)) =
      some (.payloadTooLarge, [], []) ∧
    after (step (State.reset.withFetchWord 32 0x0057803D)) (fun t => (t.cause, t.out, t.link.traffic)) =
      some (.payloadTooLarge, [], []) := by decide
theorem test_step_reset_waits : step State.reset = .next State.reset := by rfl

/-- Section 2.1. -/
theorem test_l11dec :
    l11dec 0x0000 = 0 ∧ l11dec 0x0400 = 0xC090000000000000 ∧ l11dec 0x8001 = 0x3EF0000000000000 ∧
    l11dec 0x83FF = 0x3F8FF80000000000 ∧ l11dec 0xF7F3 = 0xC00A000000000000 ∧ l11dec 0x7BFF = 0x417FF80000000000 := by
  decide
theorem test_exec_l11dec : result (exec (.l11dec 0xF032) State.reset) = some (.value 0x4029000000000000) := by decide

/-- Section 2.2: 85.0, -3.25 and -0.0 in range; 256.0 and NaN refused; 300.0 wrapped and saturated. -/
theorem test_exec_l11enc :
    result (exec (.l11enc 0x4055400000000000) State.reset) = some (.word 0xF154) ∧
    result (exec (.l11enc 0xC00A000000000000) State.reset) = some (.word 0xF7F3) ∧
    result (exec (.l11enc 0x8000000000000000) State.reset) = some (.word 0xF000) ∧
    refusal (exec (.l11enc 0x4070000000000000) State.reset) = some .mantissaOutOfRange ∧
    refusal (exec (.l11enc 0x7FF8000000000000) State.reset) = some .notFinite := by decide
theorem test_l11enc_parameters :
    l11enc { Config.defaults with overflow := .wrap } 0 0x4072C00000000000 = .word 0xF4B0 ∧
    l11enc { Config.defaults with overflow := .saturate } 0 0xC072C00000000000 = .word 0xF400 ∧
    l11enc { Config.defaults with tie := .even } 0 0x3FE4000000000000 = .word 0xF002 ∧
    l11enc { Config.defaults with tie := .away } 0 0x3FE4000000000000 = .word 0xF003 := by decide

/-- Section 2.3. -/
theorem test_exec_l16dec :
    result (exec (.l16dec 0x1A00 0xFF17) State.reset) = some (.value 0x402A000000000000) ∧
    result (exec (.l16dec 0x8000 0x0000) State.reset) = some (.value 0x40E0000000000000) := by decide
theorem test_exec_vmexp : result (exec (.vmexp 0x0037) State.reset) = some (.exponent (-9)) := by decide
theorem test_exec_rawnum : result (exec (.rawnum 0x0842) State.reset) = some (.value 0x40A0840000000000) := by decide

/-- Section 2.4. -/
theorem test_exec_stsdec :
    result (exec (.stsdec 0x0842) State.reset) =
      some (.status [11, 6, 1] false ["POWER_GOOD negated", "IOUT overcurrent", "busy"]) ∧
    result (exec (.stsdec 0x0000) State.reset) = some (.status [] true ["no faults"]) := by decide

/-- Section 2.5. -/
theorem test_exec_ascdec :
    result (exec (.ascdec [0x05, 0x41, 0x42]) State.reset) = some (.text ['A', 'B']) ∧
    result (exec (.ascdec [0x02, 0x41, 0x42, 0x43]) State.reset) = some (.text ['A', 'B']) ∧
    refusal (exec (.ascdec []) State.reset) = some .emptyBlock := by decide
/-- R15: FRAMEW and FRAMER leave PAY and RLEN alone. -/
theorem test_exec_reports_keep_latches :
    after (exec (.sendbyteReport 0x40 0x8B) { State.reset with pay := [0x03] }) State.pay = some [0x03] ∧
    after (exec (.readwordReadphase 0x40) { State.reset with rlen := 33 }) State.rlen = some 33 := by decide

/-- Section 2.6. -/
theorem test_exec_bcdrev :
    result (exec (.bcdrev 0x00A5) State.reset) = some (.revision 10 5 ['1', '0', '.', '5']) ∧
    result (exec (.bcdrev 0xAB22) State.reset) = some (.revision 2 2 ['2', '.', '2']) := by decide

/-- Section 2.10. -/
theorem test_exec_reserved :
    refusal (exec (.reservedLow 7) State.reset) = some (.reservedOpsel 0x0F) ∧
    refusal (exec (.reservedHigh 0) State.reset) = some (.reservedOpsel 0x18) := by decide
theorem test_exec_bad_address :
    refusal (exec (.readword 0x07 0x79) (linked [] [])) = some (.addressOutOfRange 0x07) ∧
    refusal (exec (.sendbyte 0x78 0x03) (linked [] [])) = some (.addressOutOfRange 0x78) := by decide

/-- Section 2.7: FRAMEW and FRAMER. -/
theorem test_exec_write_reports :
    after (exec (.writewordReport 0x5A 0x46 0xF0C8) State.reset) (fun t => t.outBytes.take 8) =
      some [0x00, 0x57, 0xB4, 0x03, 0x46, 0xC8, 0xF0, 0x00] ∧
    after (exec (.sendbyteReport 0x40 0x8B) State.reset) (fun t => t.outBytes.take 6) =
      some [0x00, 0x57, 0x80, 0x01, 0x8B, 0x00] ∧
    after (exec (.scanProbe 0x77) State.reset) (fun t => t.outBytes.take 5) = some [0x00, 0x57, 0xEE, 0x00, 0x00] := by
  decide
theorem test_exec_longest_report :
    after (exec (.hidWrite 0x10 (bytes 60)) State.reset) (fun t => (t.outBytes.take 4, t.outBytes.drop 60)) =
      some ([0x00, 0x57, 0x20, 0x3C], [0x55, 0x55, 0x55, 0x55]) := by decide +kernel
theorem test_exec_read_reports :
    after (exec (.hidRead 0x40 60) State.reset) (fun t => t.outBytes.take 5) = some [0x00, 0x52, 0x81, 0x3C, 0x00] ∧
    after (exec (.readwordReadphase 0x08) State.reset) (fun t => t.outBytes.take 5) =
      some [0x00, 0x52, 0x11, 0x02, 0x00] ∧
    after (exec (.blockreadReadphase 0x77) State.reset) (fun t => t.outBytes.take 5) =
      some [0x00, 0x52, 0xEF, 0x21, 0x00] := by decide

/-- Section 2.8: PARSEACK and PARSERD. -/
theorem test_exec_inbound :
    result (exec (.hidResp [0x01, 0x05, 0xAA, 0xBB]) State.reset) = some (.parsed true (some [0xAA, 0xBB])) ∧
    result (exec (.hidResp [0x01, 0x00]) State.reset) = some (.parsed true none) ∧
    result (exec (.hidResp [0x02, 0x02, 0x00, 0x1A]) State.reset) = some (.parsed false none) := by decide

/-- Sections 2.1, 2.3, 2.4, 2.6 for the words of the table. -/
theorem test_exec_words :
    result (exec (.l11Word 0xD3C0) State.reset) = some (.l11Fields (-6) 960) ∧
    result (exec (.l11encResult 0x7F3) State.reset) = some (.l11Fields (-2) (-13)) ∧
    result (exec (.voutModeWord 0xFF17) State.reset) = some (.exponent (-9)) ∧
    result (exec (.l16Word 0x8000) State.reset) = some (.mantissa 32768) ∧
    result (exec (.statusWordWord 0x2020) State.reset) =
      some (.status [13, 5] false ["VIN/UV fault", "VIN undervoltage"]) ∧
    result (exec (.pmbusRevisionWord 0xAB12) State.reset) = some (.nibbles 1 2) := by decide

/-- Section 2.9. -/
theorem test_exec_sendbyte :
    result (exec (.sendbyte 0x40 0x03) (linked [.ok] [.report [0x01, 0x00]])) = some (.flag true) ∧
    after (exec (.sendbyte 0x40 0x03) (linked [.ok] [.timeout])) (fun t => (t.ok, t.cause, t.lock)) =
      some (false, .timeout, .free) := by decide +kernel
theorem test_exec_sendbyte_link_error :
    after (exec (.sendbyte 0x40 0x03) (linked [.error] []))
      (fun t => (t.ok, t.cause, readCount t.link.traffic, t.connected)) = some (false, .linkError, 0, true) := by
  decide +kernel
theorem test_exec_writeword :
    after (exec (.writeword 0x40 0x01 0x0080) (linked [.ok] [.report [0x01]]))
      (fun t => (t.ok, t.outBytes.take 8)) = some (true, [0x00, 0x57, 0x80, 0x03, 0x01, 0x80, 0x00, 0x00]) := by
  decide +kernel
theorem test_exec_readword :
    after (exec (.readword 0x40 0x8B) (answering [0x01, 0x03, 0x34, 0x12, 0xFF])) (fun t => (t.raw, t.cause)) =
      some (some 0x1234, .none) := by decide +kernel
theorem test_exec_readword_short :
    after (exec (.readword 0x40 0x8B) (answering [0x01, 0x01, 0x34])) (fun t => (t.raw, t.cause)) =
      some (none, .shortOrMalformedResponse) := by decide +kernel
theorem test_exec_blockread :
    after (exec (.blockread 0x40 0x99) (answering [0x01, 0x04, 0x03, 0x41, 0x43, 0x4D])) (fun t => (t.bytes, t.cause)) =
      some (some [0x03, 0x41, 0x43, 0x4D], .none) := by decide +kernel
theorem test_exec_blockread_empty :
    after (exec (.blockread 0x40 0x99) (answering [0x01, 0x00, 0x00])) (fun t => (t.bytes, t.cause)) =
      some (some [], .none) := by decide +kernel

/-- Program P3, cut to its first answers: the probe of 0x09 alone is acknowledged. -/
theorem test_exec_scan :
    after (exec .scan (linked (List.replicate 112 .ok)
        (.timeout :: .report [0x01] :: .report [0x00] :: List.replicate 109 .timeout)))
      (fun t => (t.found, t.cause, t.scanPtr)) = some ([0x09], .none, 0x78) := by decide +kernel

/-- Program P5 and R141: the first match is opened. -/
theorem test_exec_connect :
    after (exec .connect { State.reset with link := { Link.unscripted with enums := [.devices [5, 6]], opens := [.ok] } })
      (fun t => (t.ok, t.handle)) = some (true, some ⟨5, 300⟩) ∧
    after (exec .connect { State.reset with link := { Link.unscripted with enums := [.devices []] } })
      (fun t => (t.ok, t.cause, t.connected)) = some (false, .notConnected, false) := by decide
theorem test_exec_connect_twice : refusal (exec .connect (linked [] [])) = some .alreadyConnected := by decide
theorem test_exec_disconnect :
    after (exec .disconnect { linked [] [] with link := { Link.unscripted with closes := [.error] } })
      (fun t => (t.connected, t.cause)) = some (false, .none) := by decide
theorem test_exec_isconn :
    result (exec .isconn { linked [] [] with link := { Link.unscripted with readables := [true], writables := [true] } }) =
      some (.flag true) ∧
    result (exec .isconn { linked [] [] with link := { Link.unscripted with readables := [true], writables := [false] } }) =
      some (.flag false) := by decide

/-- Programs P1, P2, P4, P6 and P7. -/
theorem test_exec_read_vout :
    result (exec (.readVout 0x40) (linked [.ok, .ok, .ok, .ok]
      [.report [0x01], .report [0x01, 0x02, 0x17, 0x00], .report [0x01], .report [0x01, 0x02, 0x00, 0x1A]])) =
      some (.reading 0x1A00 0x402A000000000000) := by decide +kernel
theorem test_exec_vout_mode :
    result (exec (.voutMode 0x40) (answering [0x01, 0x02, 0x17, 0x00])) = some (.modeReading 0x0017 (-9)) := by
  decide +kernel
theorem test_exec_vout_command : result (exec .voutCommand State.reset) = some (.code 0x21) := by decide
theorem test_exec_limit_write :
    after (exec (.otFaultLimit 0x40 (.write 0x4055400000000000)) (linked [.ok] [.report [0x01]]))
      (fun t => (t.ok, t.outBytes.take 7)) = some (true, [0x00, 0x57, 0x80, 0x03, 0x4F, 0x54, 0xF1]) := by decide +kernel
theorem test_exec_limit_write_refused_value :
    after (exec (.voutOvFaultLimit 0x40 (.write 0x4072C00000000000)) (linked [.ok] [.report [0x01]]))
      (fun t => (t.link.traffic, t.delivered.map Delivery.result)) = some ([], [.noResult]) := by decide +kernel
theorem test_exec_limit_read :
    result (exec (.ioutOcFaultLimit 0x40 .read) (answering [0x01, 0x02, 0x54, 0xF1])) =
      some (.reading 0xF154 0x4055400000000000) := by decide +kernel
theorem test_exec_operation :
    after (exec (.operation 0x40) (linked [.ok] [.report [0x01]])) (fun t => t.outBytes.take 7) =
      some [0x00, 0x57, 0x80, 0x03, 0x01, 0x80, 0x00] := by decide +kernel
theorem test_exec_clear_faults :
    after (exec (.clearFaults 0x40) (linked [.ok] [.report [0x01]])) (fun t => (t.ok, t.outBytes.take 5)) =
      some (true, [0x00, 0x57, 0x80, 0x01, 0x03]) := by decide +kernel
theorem test_exec_status_word :
    result (exec (.statusWord 0x40) (answering [0x01, 0x02, 0x42, 0x08])) =
      some (.statusReading 0x0842 0x40A0840000000000 [11, 6, 1] false
        ["POWER_GOOD negated", "IOUT overcurrent", "busy"]) := by decide +kernel
theorem test_exec_read_l11 :
    result (exec (.readVin 0x40) (answering [0x01, 0x02, 0xC0, 0xD3])) = some (.reading 0xD3C0 0x402E000000000000) ∧
    result (exec (.readIout 0x40) (answering [0x01, 0x02, 0x80, 0xDA])) = some (.reading 0xDA80 0x4034000000000000) ∧
    result (exec (.readTemperature1 0x40) (answering [0x01, 0x02, 0x20, 0xEB])) =
      some (.reading 0xEB20 0x4059000000000000) := by decide +kernel
theorem test_exec_read_l11_failed :
    result (exec (.readVin 0x50) (linked [.ok] [.timeout])) = some .noResult := by decide +kernel
theorem test_exec_revision :
    result (exec (.pmbusRevision 0x40) (answering [0x01, 0x02, 0x22, 0x00])) =
      some (.revReading 0x0022 ['2', '.', '2']) := by decide +kernel
theorem test_exec_strings :
    result (exec (.mfrId 0x40) (answering [0x01, 0x21, 0x03, 0x41, 0x43, 0x4D, 0x00])) = some (.text ['A', 'C', 'M']) ∧
    result (exec (.mfrModel 0x40) (answering [0x01, 0x00, 0x00])) = some .noResult ∧
    after (exec (.mfrRevision 0x40) (answering [0x01, 0x02, 0x01, 0x41])) (fun t => t.cmd) = some 0x9B ∧
    after (exec (.mfrSerial 0x40) (answering [0x01, 0x02, 0x01, 0x41])) (fun t => t.cmd) = some 0x9E := by decide +kernel

/-! ## One line at a time -/

/-- READWORD taken by agent 1, at the connected test. -/
def busy : State :=
  acquire (.readword 0x40 0x8B) .plain { answering [0x01, 0x02, 0x00, 0x1A] with issuer := 1 }

/-- `busy` at another line. -/
def busyAt (p : Phase) (l : Line) : State := { busy with phase := p, line := l }

/-- The PHASEs of a READWORD (R149), and the lines of R145. -/
theorem test_lines_of_readword :
    after (seqStep busy) (fun t => (t.phase, t.line)) = some (.check, .sendCmd) ∧
    after (seqStep (busyAt .check .sendCmd)) (fun t => (t.phase, t.line)) = some (.wSent, .ackCmd) ∧
    after (seqStep (busyAt .wSent .ackCmd)) (fun t => (t.phase, t.line, t.settleTimer)) =
      some (.settle, .wait, some 20) ∧
    after (seqStep (busyAt .settle .sendRead)) (fun t => (t.phase, t.line)) = some (.rSent, .recvRead) ∧
    after (seqStep (busyAt .rSent (.shortData [0x34]))) (fun t => (t.phase, t.cause, t.raw)) =
      some (.done, .shortOrMalformedResponse, none) := by decide +kernel

/-- CONNECT with one matching adapter (R141), each LINK call a step. -/
def connecting : State :=
  takeLock .connect .plain { State.reset with link := { Link.unscripted with enums := [.devices [5]], opens := [.ok] } }

theorem test_lines_of_connect :
    after (runToIdle longestRun connecting) (fun t => (t.phase, t.lock, t.handle, t.delivered)) =
      some (.idle, .free, some ⟨5, 300⟩, [⟨0, .flag true⟩]) ∧
    after (runToIdle 7 connecting) (fun t => (t.line, t.handle)) = some (.setTimeout 5, none) ∧
    after (runToIdle 8 connecting) (fun t => (t.line, t.handle)) = some (.setConnected 5, none) := by decide

/-- R10, R40: agent 1 waits for its READWORD before its L11DEC. -/
theorem test_agent_waits_for_its_result :
    after (step { busy with turns := [.host 1], port := [⟨1, .request .opsel [0x10, 0x32, 0xF0]⟩] })
      (fun t => (t.port.length, t.delivered)) = some (1, []) := by decide

/-- Program P8: in the middle of agent 1's operation, agent 2's READWORD waits and its L11DEC completes. -/
theorem test_two_callers :
    after (step { busy with turns := [.host 2], port := [⟨2, .request .opsel [0x05, 0x38, 0x8B]⟩] })
      (fun t => (t.lock, t.phase, t.port.length)) = some (.held 1, .check, 1) ∧
    after (step { busy with turns := [.host 2], port := [⟨2, .request .opsel [0x10, 0x32, 0xF0]⟩] })
      (fun t => (t.lock, t.delivered)) = some (.held 1, [⟨2, .value 0x4029000000000000⟩]) := by decide

/-! ## Witnesses: for each statement with hypotheses, values that meet them -/

theorem witness_DecodeInvertsEncode :
    (Instr.readword 0x08 0x8B).wellFormed = true ∧ (Instr.otFaultLimit 0x77 (.write 0)).wellFormed = true ∧
    (Instr.hidWrite 0x40 (bytes 255)).wellFormed = true ∧ (Instr.hidRead 0x00 255).wellFormed = true ∧
    (Instr.ascdec [0x00]).wellFormed = true := by decide +kernel

theorem witness_SpecWordsDecode :
    ∀ c ∈ [0x00#8, 0x02#8, 0x9F#8, 0xFF#8],
      c ∉ [0x01#8, 0x03#8, 0x20#8, 0x21#8, 0x40#8, 0x46#8, 0x4F#8, 0x79#8, 0x88#8, 0x8B#8, 0x8C#8, 0x8D#8, 0x98#8,
        0x99#8, 0x9A#8, 0x9B#8, 0x9E#8] := by decide

theorem witness_BuiltReportsDecode : (bytes 60).length ≤ 60 ∧ (bytes 0).length ≤ 60 ∧ (60#8).toNat ≤ 60 := by decide

theorem witness_DecoderBitPattern :
    (1 ≤ (1 : Int).natAbs ∧ (1 : Int).natAbs ≤ 65535 ∧ -16 ≤ (-16 : Int) ∧ (-16 : Int) ≤ 15) ∧
    (1 ≤ (-65535 : Int).natAbs ∧ (-65535 : Int).natAbs ≤ 65535 ∧ -16 ≤ (15 : Int) ∧ (15 : Int) ≤ 15) := by decide

theorem witness_LinearElevenDecode :
    (0xF800#16).extractLsb' 0 11 = 0 ∧ l11dec 0x8001 ≠ 0 ∧ l11dec 0x7C00 ≠ 0 := by decide

theorem witness_LinearSixteenDecode : l16dec 0x0001 0x0010 ≠ 0 ∧ l16dec 0xFFFF 0x000F ≠ 0 := by decide

theorem witness_EncoderRounding :
    f64Finite 0x406FF80000000000 = true ∧ -(2049 : ℚ) / 8 < f64Value 0x406FF80000000000 ∧
    f64Value 0x406FF80000000000 < 2047 / 8 := by
  have e : f64Value 0x406FF80000000000 = 1023 / 4 := by
    have h1 : f64Significand 0x406FF80000000000 = 1023 * 2 ^ 43 := by decide
    have h2 : f64Scale 0x406FF80000000000 = -45 := by decide
    have h3 : (0x406FF80000000000 : F64).msb = false := by decide
    simp only [f64Value, h1, h2, h3]
    norm_num
  refine ⟨by decide, ?_, ?_⟩ <;> rw [e] <;> norm_num

/-- The tie at 0.125 (section 2.2). -/
theorem witness_EncoderRounding_tie :
    f64Finite 0x3FC0000000000000 = true ∧ 4 * f64Value 0x3FC0000000000000 = ((0 : Int) : ℚ) + 1 / 2 := by
  refine ⟨by decide, ?_⟩
  have h1 : f64Significand 0x3FC0000000000000 = 2 ^ 52 := by decide
  have h2 : f64Scale 0x3FC0000000000000 = -55 := by decide
  have h3 : (0x3FC0000000000000 : F64).msb = false := by decide
  simp only [f64Value, h1, h2, h3]
  norm_num

theorem witness_EncoderRoundTrip :
    f64Finite 0xC070000000000000 = true ∧
    -1024 ≤ quarterRound State.reset.params.tie State.reset.draws 0xC070000000000000 ∧
    quarterRound State.reset.params.tie State.reset.draws 0xC070000000000000 ≤ 1023 := by decide

/-- -256.0, the low end, is a multiple of 0.25. -/
theorem witness_EncoderRoundTrip_exact : ∃ m : Int, f64Value 0xC070000000000000 = (m : ℚ) / 4 := by
  refine ⟨-1024, ?_⟩
  have h1 : f64Significand 0xC070000000000000 = 2 ^ 52 := by decide
  have h2 : f64Scale 0xC070000000000000 = -44 := by decide
  have h3 : (0xC070000000000000 : F64).msb = true := by decide
  simp only [f64Value, h1, h2, h3]
  norm_num

/-- A reset block with one parameter set otherwise. -/
def withOverflow (o : Overflow) : State := { State.reset with params := { Config.defaults with overflow := o } }

theorem witness_EncoderOutOfRange :
    f64Finite 0x7FF0000000000000 = false ∧ f64Finite 0x4070000000000000 = true ∧
    (∀ o ∈ [Overflow.refuse, .wrap, .saturate], (withOverflow o).params.overflow = o ∧
      quarterRound (withOverflow o).params.tie (withOverflow o).draws 0x4070000000000000 = 1024 ∧
      quarterRound (withOverflow o).params.tie (withOverflow o).draws 0xC070040000000000 = -1025) := by decide

theorem witness_AsciiBlockDecode : 0 < min (0x01#8).toNat [0x7F#8].length ∧ ([0x7F#8].getD 0 0).toNat < 0x80 := by
  decide

theorem witness_CodecIsPure :
    plan (.bcdrev 0x0022) = .codec ∧ stops (exec (.bcdrev 0x0022) State.reset) = false ∧
    plan (.ascdec []) = .codec ∧ stops (exec (.ascdec []) State.reset) = true ∧
    stops (exec (.l11enc 0x3FE4000000000000) State.reset) = false ∧ (∀ v, Instr.bcdrev 0x0022 ≠ .l11enc v) ∧
    ({ Config.defaults with tie := .away }).tie ≠ .open_ := by
  refine ⟨by decide, by decide, by decide, by decide, ?_, nofun, by decide⟩
  have h : ∀ d, ∃ w, l11enc Config.defaults d 0x3FE4000000000000 = .word w := by
    intro d
    cases h : Config.freeTie d <;>
      exact ⟨_, by simp only [l11enc, quarterRound, quarterMagnitude, tieUp, Config.defaults, h]; rfl⟩
  obtain ⟨w, hw⟩ := h 0
  have e : exec (.l11enc 0x3FE4000000000000) State.reset = answer (.word w) State.reset := by
    show execL11enc _ _ = _
    unfold execL11enc
    rw [show l11enc State.reset.params State.reset.draws 0x3FE4000000000000 = .word w from hw]
  rw [e]
  rfl

/-- A codec request of agent 2 in the middle of agent 1's operation. -/
theorem witness_CodecIsPure_turn :
    ∃ (s : State) (rest : List Pending), s.turns = [.host 2] ∧ s.lock ≠ .free ∧ s.lock ≠ .held 2 ∧
      takeFirst 2 s.port = some (.request .opsel [0x10, 0x32, 0xF0], rest) ∧
      decode .opsel [0x10, 0x32, 0xF0] = .ok (.l11dec 0xF032) ∧ plan (.l11dec 0xF032) = .codec :=
  ⟨{ busy with turns := [.host 2], port := [⟨2, .request .opsel [0x10, 0x32, 0xF0]⟩] }, [], rfl, by decide, by decide,
    rfl, by decide, rfl⟩

theorem witness_FramerProperties :
    addrOk 0x08 = true ∧ addrOk 0x77 = true ∧ (bytes 60).length ≤ 60 ∧ (60#8).toNat ≤ 60 ∧
    [0x01#8, 0x02#8, 0xAA#8].length ≤ Config.defaults.lIn ∧ parseRd [0x01, 0x02, 0xAA] = some [0xAA] := by decide

theorem witness_WriteReportRows : State.reset.lock = .free ∧ (bytes 60).length ≤ 60 := by decide
theorem witness_ReadReportRows : State.reset.lock = .free ∧ (60#8).toNat ≤ 60 := by decide
theorem witness_OverlongPayloadIsLocal :
    60 < (bytes 61).length ∧ (bytes 255).length < 256 ∧ 60 < (61#8).toNat ∧ State.reset.lock = .free := by
  decide +kernel

/-- For SendbyteOutcome, WritewordOutcome, ReadwordOutcome, BlockreadOutcome and ScanOutcome. -/
theorem witness_DeviceOutcomes :
    (linked [.ok] []).lock = .free ∧ (linked [.ok] []).connected = true ∧ addrOk 0x08 = true ∧ addrOk 0x77 = true := by
  decide

/-- The three ends of ReadwordOutcome. -/
theorem witness_ReadwordOutcome :
    (exchangeWR Config.defaults 0x40 0x8B 2 (linked [.ok] [.report [0x00]]).link).cause ≠ .none ∧
    (exchangeWR Config.defaults 0x40 0x8B 2 (answering [0x01, 0x01, 0x34]).link).cause = .none ∧
    (exchangeWR Config.defaults 0x40 0x8B 2 (answering [0x01, 0x01, 0x34]).link).data.length < 2 ∧
    (exchangeWR Config.defaults 0x40 0x8B 2 (answering [0x01, 0x02, 0x34, 0x12]).link).cause = .none ∧
    (exchangeWR Config.defaults 0x40 0x8B 2 (answering [0x01, 0x02, 0x34, 0x12]).link).data = [0x34, 0x12] := by
  decide +kernel

theorem witness_ConnectOutcome :
    (State.reset.lock = .free ∧ State.reset.connected = false) ∧
    ∀ r : Reconnect, ∃ s : State, s.lock = .free ∧ s.connected = true ∧ s.params.reconnect = r :=
  ⟨by decide, fun r => ⟨{ linked [] [] with params := { Config.defaults with reconnect := r } }, rfl, rfl, rfl⟩⟩

/-- For DisconnectIsIdempotent, IsconnOutcome and InboundReportRow, with and without a handle. -/
theorem witness_LockFree : State.reset.lock = .free ∧ (linked [] []).lock = .free := by decide

theorem witness_NotConnectedIsLocal :
    State.reset.lock = .free ∧ State.reset.connected = false ∧ addrOk 0x77 = true := by decide

theorem witness_ReservedAddressRefused :
    (0x07#7).toNat < 0x08 ∧ 0x77 < (0x78#7).toNat ∧ 0x77 < (0x7F#7).toNat := by decide

/-- A READWORD with a word and one without. -/
theorem witness_ReadLinearElevenRegisters :
    (answering [0x01, 0x02, 0xC0, 0xD3]).lock = .free ∧ addrOk 0x40 = true ∧
    after (exec (.readword 0x40 0x88) (answering [0x01, 0x02, 0xC0, 0xD3])) State.raw = some (some 0xD3C0) ∧
    after (exec (.readword 0x40 0x88) (linked [.ok] [.timeout])) State.raw = some none := by decide +kernel

/-- VOUT_MODE read, then READ_VOUT with and without a word. -/
theorem witness_ReadVoutSequence :
    (linked [.ok, .ok, .ok] []).lock = .free ∧
    after (exec (.readword 0x40 0x20) (answering [0x01, 0x02, 0x17, 0x00])) State.raw = some (some 0x0017) ∧
    after (exec (.readword 0x40 0x8B) (answering [0x01, 0x02, 0x00, 0x1A])) State.raw = some (some 0x1A00) ∧
    after (exec (.readword 0x40 0x20) (linked [.ok] [.timeout])) State.raw = some none := by decide +kernel

theorem witness_ReadStatusAndRevision :
    (answering []).lock = .free ∧ addrOk 0x40 = true ∧
    after (exec (.readword 0x40 0x79) (answering [0x01, 0x02, 0x00, 0x00])) State.raw = some (some 0x0000) ∧
    after (exec (.readword 0x40 0x98) (linked [.error] [])) State.raw = some none := by decide +kernel

theorem witness_ReadStringRegisters :
    (answering []).lock = .free ∧ addrOk 0x40 = true ∧
    after (exec (.blockread 0x40 0x99) (linked [.ok] [.timeout])) State.bytes = some none ∧
    after (exec (.blockread 0x40 0x99) (answering [0x01, 0x00, 0x00])) State.bytes = some (some []) ∧
    after (exec (.blockread 0x40 0x99) (answering [0x01, 0x02, 0x01, 0x41])) State.bytes = some (some [0x01, 0x41]) := by
  decide +kernel

theorem witness_WriteLimitRegisters :
    State.reset.lock = .free ∧ addrOk 0x40 = true ∧ stops (exec (.l11enc 0x4070000000000000) State.reset) = true ∧
    after (exec (.l11enc 0x4055400000000000) State.reset) State.delivered = some [⟨0, .word 0xF154⟩] := by decide

theorem witness_ClearFaultsAndTurnOn : State.reset.lock = .free ∧ addrOk 0x08 = true ∧ addrOk 0x77 = true := by decide

theorem witness_StepRunsDecoded :
    ∃ s : State, s.turns = [] ∧ s.phase = .idle ∧ s.lock = .free ∧
      s.port = [⟨3, .request .opsel [0x05, 0x38, 0x8B]⟩] ∧
      decode .opsel [0x05, 0x38, 0x8B] = .ok (.readword 0x40 0x8B) ∧
      decodeTableWord 8 0x05 = some (.readword 0x08 0x00) :=
  ⟨{ State.reset with port := [⟨3, .request .opsel [0x05, 0x38, 0x8B]⟩] }, rfl, rfl, rfl, rfl, by decide, by decide⟩

theorem witness_LockedOutAgentWaits :
    ∃ s : State, s.turns = [.host 2] ∧ s.lock ≠ .free ∧
      takeFirst 2 s.port = some (.request .opsel [0x05, 0x38, 0x8B], []) ∧
      decode .opsel [0x05, 0x38, 0x8B] = .ok (.readword 0x40 0x8B) ∧
      (Instr.readword 0x40 0x8B).wellFormed = true ∧ plan (.readword 0x40 0x8B) ≠ .codec :=
  ⟨{ busy with turns := [.host 2], port := [⟨2, .request .opsel [0x05, 0x38, 0x8B]⟩] }, rfl, by decide, rfl,
    by decide, by decide, by decide⟩

theorem witness_LockedOutAgentWaits_call :
    ∃ s : State, s.turns = [.host 2] ∧ s.lock ≠ .free ∧
      takeFirst 2 s.port = some (.call (.readword 0x40 0x8B) (.l16 0x0017), []) :=
  ⟨{ busy with turns := [.host 2], port := [⟨2, .call (.readword 0x40 0x8B) (.l16 0x0017)⟩] }, rfl, by decide, rfl⟩

theorem witness_LockedOutAgentWaits_holder :
    ∃ s : State, s.turns = [.host 1] ∧ s.lock = .held 1 ∧ s.port = [⟨1, .request .opsel [0x10, 0x32, 0xF0]⟩] :=
  ⟨{ busy with turns := [.host 1], port := [⟨1, .request .opsel [0x10, 0x32, 0xF0]⟩] }, rfl, rfl, rfl⟩

theorem witness_PrologueTakesLock :
    ∃ s : State, s.turns = [.host 2] ∧ s.lock = .free ∧
      takeFirst 2 s.port = some (.request .opsel [0x06, 0x6F, 0x01, 0x80, 0x00], []) ∧
      decode .opsel [0x06, 0x6F, 0x01, 0x80, 0x00] = .ok (.writeword 0x77 0x01 0x0080) ∧
      plan (.writeword 0x77 0x01 0x0080) = .call (.writeword 0x77 0x01 0x0080) .plain ∧
      callOk (.writeword 0x77 0x01 0x0080) = true ∧ refusesReconnect (.writeword 0x77 0x01 0x0080) s = false :=
  ⟨{ linked [] [] with turns := [.host 2], port := [⟨2, .request .opsel [0x06, 0x6F, 0x01, 0x80, 0x00]⟩] }, rfl, rfl,
    rfl, by decide, rfl, by decide, by decide⟩

/-- The operation a sequence goes on with. -/
theorem witness_PrologueTakesLock_call :
    ∃ s : State, s.turns = [.host 2] ∧ s.lock = .free ∧
      TurnBegins s 2 (.readword 0x08 0x8B) (.l16 0x0017) [] s.draws ∧ callOk (.readword 0x08 0x8B) = true ∧
      refusesReconnect (.readword 0x08 0x8B) s = false :=
  ⟨{ linked [] [] with turns := [.host 2], port := [⟨2, .call (.readword 0x08 0x8B) (.l16 0x0017)⟩] }, rfl, rfl,
    .inr (.inl ⟨rfl, rfl⟩), by decide, by decide⟩

/-- WR_LIMIT of 85.0, whose word is 0xF154 (R173). -/
theorem witness_PrologueTakesLock_limit :
    ∃ s : State, s.turns = [.host 2] ∧ s.lock = .free ∧
      TurnBegins s 2 (.writeword 0x40 0x4F 0xF154) .plain [] (s.draws + 1) ∧
      callOk (.writeword 0x40 0x4F 0xF154) = true ∧ refusesReconnect (.writeword 0x40 0x4F 0xF154) s = false :=
  ⟨{ linked [] [] with
      turns := [.host 2], port := [⟨2, .request .cmd [0x4F, 0x38, 0x01, 0, 0, 0, 0, 0, 0x40, 0x55, 0x40]⟩] }, rfl, rfl,
    .inr (.inr ⟨.cmd, [0x4F, 0x38, 0x01, 0, 0, 0, 0, 0, 0x40, 0x55, 0x40],
      .otFaultLimit 0x40 (.write 0x4055400000000000), 0x40, 0x4F, 0x4055400000000000, 0xF154, rfl, by decide, rfl,
      by decide, rfl, rfl, rfl⟩), by decide, by decide⟩

/-- WR_LIMIT of 300.0, out of range under `refuse`. -/
theorem witness_PrologueTakesLock_refused :
    decode .cmd [0x40, 0x38, 0x01, 0, 0, 0, 0, 0, 0xC0, 0x72, 0x40] =
      .ok (.voutOvFaultLimit 0x40 (.write 0x4072C00000000000)) ∧
    plan (.voutOvFaultLimit 0x40 (.write 0x4072C00000000000)) = .limitWrite 0x40 0x40 0x4072C00000000000 ∧
    addrOk 0x40 = true ∧ l11enc State.reset.params State.reset.draws 0x4072C00000000000 = .outOfRange ∧
    State.reset.lock = .free := by decide

theorem witness_OperationIsNotDisturbed :
    ∃ s : State, s.turns = [.host 2] ∧ s.lock ≠ .free ∧ stops (step s) = false :=
  ⟨{ busy with turns := [.host 2], port := [⟨2, .request .opsel [0x05, 0x38, 0x8B]⟩] }, rfl, by decide, by decide⟩

/-- Of its clauses: a line that is no latching, a PHASE that is not DONE; and the two lines excepted. -/
theorem witness_PhaseFollowsArrows :
    stops (seqStep busy) = false ∧ (∀ c, busy.line ≠ .latch c) ∧ busy.phase ≠ .done ∧
    stops (seqStep connecting) = false ∧ stops (seqStep (busyAt .done .release)) = false :=
  ⟨by decide, nofun, by decide, by decide, by decide⟩

/-- A line with no call, one that hands a report over and one that asks for one. -/
theorem witness_AtMostOneCallPerStep :
    stops (seqStep busy) = false ∧ stops (seqStep (busyAt .check .sendCmd)) = false ∧
    stops (seqStep (busyAt .wSent .ackCmd)) = false := by decide +kernel

theorem witness_SettleComesBetween :
    readsData busy.op = true ∧ (busyAt .wSent .ackCmd).phase = .wSent ∧ (busyAt .wSent .ackCmd).line = .ackCmd ∧
    (busyAt .settle .wait).phase = .settle ∧ (busyAt .settle .wait).line = .wait ∧
    (busyAt .settle .sendRead).line = .sendRead ∧
    busy.link.nextRead busy.params.lIn = .report [0x01, 0x00] ∧
    (linked [] [.timeout]).link.nextRead 64 = .timeout := by decide

/-- An operation of its own; READ_VOUT with a VOUT_MODE word and without. -/
theorem witness_SequencerRefinesWhole :
    (linked [.ok] [.timeout]).lock = .free ∧ callOk (.readword 0x40 0x8B) = true ∧
    refusesReconnect (.readword 0x40 0x8B) (linked [.ok] [.timeout]) = false ∧ Machine.Cont.str ≠ .vout 0x40 ∧
    (operate (.readword 0x40 0x20) (.vout 0x40) (linked [.ok] [.timeout])).raw = none ∧
    (operate (.readword 0x40 0x20) (.vout 0x40) (answering [0x01, 0x02, 0x17, 0x00])).raw = some 0x0017 ∧
    (answering [0x01, 0x02, 0x17, 0x00]).turns = [] ∧ addrOk 0x40 = true := by decide +kernel

/-- The invariant in the middle of an operation, for OperationEnds, EveryStepKeepsInvariant and NoFaultWithInvariant. -/
theorem busy_inv : Inv busy := by
  constructor <;>
    simp [busy, answering, linked, acquire, latchOperands, takeLock, State.reset, awaiting, usesHandle, opening, latched,
      pairing, Link.unscripted, Memory.wf, Memory.wfFrom, Config.maxPayload, Config.tReadTimeout, needsHandle, addrOk,
      Config.addrLo, Config.addrHi, Line.inPhase, Line.fits]

theorem witness_OperationEnds : busy.phase ≠ .idle := by decide
theorem witness_EveryStepKeepsInvariant : stops (step { busy with turns := [.sequencer] }) = false := by decide +kernel

theorem witness_LockNeverLeftHeld :
    State.reset.lock = .free ∧ stops (exec (.readword 0x40 0x79) State.reset) = false := by decide

theorem witness_WhoWritesWhat :
    Instr.scan ≠ .connect ∧ Instr.scan ≠ .disconnect ∧ stops (exec .scan State.reset) = false ∧
    stops (step State.reset) = false ∧
    plan (.hidResp [0x01]) = .framer ∧ stops (exec (.hidResp [0x01]) State.reset) = false ∧
    plan (.vmexp 0x0017) = .codec ∧ stops (exec (.vmexp 0x0017) State.reset) = false := by decide

theorem witness_ExchangesPerOperation :
    State.reset.lock = .free ∧ (linked [.ok] []).connected = true ∧ stops (exec .isconn (linked [] [])) = false ∧
    stops (exec (.sendbyte 0x40 0x03) (linked [.error] [])) = false ∧
    (exchangeW Config.defaults 0x40 [0x8B] (answering [0x01, 0x02, 0x00, 0x1A]).link).cause = .none := by
  decide +kernel

theorem witness_BufferLaws :
    Memory.wf [(0, 0x57#8), (63, 0x01#8)] = true ∧ Memory.wf [] = true ∧ Memory.wf [(0, 0#8)] = false ∧
    Memory.wf [(2, 0x57#8), (1, 0x01#8)] = false := by decide

end Sys2Proof.Tests
end

section
/-! The bytes of the wire: words low byte first (20_memory.md R33) and the address byte of a report (30_encoding.md R54). -/

namespace Sys2Proof.Machine

/-! ### Words, low byte first (R33) -/

/-- R33's `d[0] + 256 * d[1]`: the low byte fills the eight bits below the high one, so the two never overlap. -/
theorem word16_toNat (lo hi : Byte) : (word16 lo hi).toNat = lo.toNat + 256 * hi.toNat := by
  have append_as_sum : hi.toNat <<< 8 ||| lo.toNat = hi.toNat <<< 8 + lo.toNat :=
    (Nat.shiftLeft_add_eq_or_of_lt lo.isLt hi.toNat).symm
  rw [word16, BitVec.toNat_append, append_as_sum, Nat.shiftLeft_eq]
  omega

theorem lowByte_toNat (v : Word) : (v.extractLsb' 0 8).toNat = v.toNat % 256 := by
  rw [BitVec.extractLsb'_toNat, Nat.shiftRight_zero]

theorem highByte_toNat (v : Word) : (v.extractLsb' 8 8).toNat = v.toNat / 256 := by
  have quotient_is_byte : v.toNat / 2 ^ 8 < 2 ^ 8 := Nat.div_lt_of_lt_mul v.isLt
  rw [BitVec.extractLsb'_toNat, Nat.shiftRight_eq_div_pow]
  exact Nat.mod_eq_of_lt quotient_is_byte

/-- Reading back the two bytes `le16` sends gives the word. -/
@[simp] theorem word16_lowByte_highByte (v : Word) : word16 (v.extractLsb' 0 8) (v.extractLsb' 8 8) = v := by
  apply BitVec.eq_of_toNat_eq
  rw [word16_toNat, lowByte_toNat, highByte_toNat]
  exact Nat.mod_add_div v.toNat 256

/-! ### The address byte (R54) -/

/-- A 7-bit address shifted left by one fits a byte: no bit is lost. -/
theorem addrByteW_toNat (a : Addr) : (addrByteW a).toNat = 2 * a.toNat := by
  have no_bit_lost : 2 * a.toNat < 2 ^ 8 := by have := a.isLt; omega
  rw [addrByteW, BitVec.toNat_shiftLeft, BitVec.toNat_setWidth_of_le (by decide), Nat.shiftLeft_eq,
    Nat.pow_one, Nat.mul_comm, Nat.mod_eq_of_lt no_bit_lost]

/-- The read bit lands in the bit the shift has cleared, so OR adds one. -/
theorem addrByteR_toNat (a : Addr) : (addrByteR a).toNat = 2 * a.toNat + 1 := by
  have read_bit : addrByteR a = addrByteW a ||| 1#8 := rfl
  rw [read_bit, BitVec.toNat_or, addrByteW_toNat]
  exact (Nat.two_pow_add_eq_or_of_lt (i := 1) (by decide) a.toNat).symm

/-- Settles O4: each clause is the rule of one conversion, and R54's examples are evaluated. -/
theorem wireByteOrder : Obligations.WireByteOrder := by
  refine ⟨word16_toNat, fun v => ?bytes, fun a => ⟨addrByteW_toNat a, addrByteR_toNat a⟩, by decide⟩
  case bytes => exact ⟨_, _, rfl, lowByte_toNat v, highByte_toNat v, word16_lowByte_highByte v⟩

end Sys2Proof.Machine
end

section
/-! The numeric decoders (40_codec_numeric.md R80 to R82, R85 to R87): sign extension as the two's-complement value, the value of
the binary64 pattern that `packF64` builds, and from these the exactness of L11DEC, L16DEC and RAWNUM. -/

namespace Sys2Proof.Machine

/-! ### Sign extension (R80) -/

/-- The model's sign extension is the two's-complement value of the field. -/
theorem sext_eq_toInt {n : Nat} (v : BitVec n) : sext v = v.toInt := by
  rw [sext, BitVec.toInt_eq_msb_cond, Nat.cast_pow, Nat.cast_ofNat]

/-- R80's test of bit N-1. -/
theorem sext_eq_bitTest {n : Nat} (v : BitVec n) :
    sext v = if v.getLsbD (n - 1) then (v.toNat : Int) - 2 ^ n else v.toNat := by
  rw [sext, BitVec.msb_eq_getLsbD_last]

theorem sext_bounds {n : Nat} (v : BitVec n) : -2 ^ (n - 1) ≤ sext v ∧ sext v < 2 ^ (n - 1) := by
  rw [sext_eq_toInt]
  exact ⟨BitVec.le_toInt v, BitVec.toInt_lt⟩

@[simp] theorem sext_zero (n : Nat) : sext (0#n) = 0 := by rw [sext_eq_toInt, BitVec.toInt_zero]

/-- The OR forms of R80 for every pair of widths: with the top bit set, ones are put above the field. -/
theorem signExtend_eq_or_ones {n : Nat} (m : Nat) (v : BitVec n) :
    v.signExtend m = if v.msb then v.setWidth m ||| (BitVec.allOnes m <<< n) else v.setWidth m := by
  ext i hi
  rw [BitVec.getElem_signExtend]
  by_cases in_field : i < n
  · cases v.msb <;> simp [in_field, BitVec.getLsbD_eq_getElem]
  · have no_bit : v.getLsbD i = false := BitVec.getLsbD_of_ge v i (Nat.le_of_not_lt in_field)
    cases v.msb <;> simp [in_field, no_bit]

theorem orExtend5_eq_signExtend (v : BitVec 5) : orExtend5 v = v.signExtend 8 := by
  rw [signExtend_eq_or_ones, BitVec.msb_eq_getLsbD_last]
  rfl

theorem orExtend11_eq_signExtend (v : BitVec 11) : orExtend11 v = v.signExtend 16 := by
  rw [signExtend_eq_or_ones, BitVec.msb_eq_getLsbD_last]
  rfl

/-- Settles O5: the number is R80's bit test, and the OR form is `signExtend`, which keeps the
two's-complement value. -/
theorem signExtensionRule : Obligations.SignExtensionRule := by
  refine ⟨fun v => ⟨sext_eq_bitTest v, ?or5⟩, fun v => ⟨sext_eq_bitTest v, ?or11⟩, by decide⟩
  case or5 => rw [orExtend5_eq_signExtend, BitVec.toInt_signExtend_of_le (by decide), sext_eq_toInt]
  case or11 => rw [orExtend11_eq_signExtend, BitVec.toInt_signExtend_of_le (by decide), sext_eq_toInt]

/-! ### binary64 patterns (R82) -/

theorem f64Exponent_eq_div (v : F64) : f64Exponent v = v.toNat / 2 ^ 52 % 2 ^ 11 := by
  rw [f64Exponent, BitVec.extractLsb'_toNat, Nat.shiftRight_eq_div_pow]

theorem f64Fraction_eq_mod (v : F64) : f64Fraction v = v.toNat % 2 ^ 52 := by
  rw [f64Fraction, BitVec.extractLsb'_toNat, Nat.shiftRight_zero]

@[simp] theorem packF64_zero (N : Int) : packF64 0 N = 0 := rfl

@[simp] theorem f64Value_zero : f64Value 0 = 0 := by
  have significand_zero : f64Significand 0 = 0 := rfl
  rw [f64Value, significand_zero, Nat.cast_zero, mul_zero, zero_mul]

/-- Scaling `a` so that its leading 1 stands at bit 52 splits off R82's hidden bit and fraction. -/
theorem hiddenBit_add_fraction {a : Nat} (a_pos : a ≠ 0) (log_le : a.log2 ≤ 52) :
    2 ^ 52 + (a - 2 ^ a.log2) * 2 ^ (52 - a.log2) = a * 2 ^ (52 - a.log2) := by
  have hidden : 2 ^ a.log2 * 2 ^ (52 - a.log2) = 2 ^ 52 := by rw [← pow_add, Nat.add_sub_cancel' log_le]
  rw [← hidden, ← Nat.add_mul, Nat.add_sub_cancel' (Nat.log2_self_le a_pos)]

theorem fraction_lt {a : Nat} (log_le : a.log2 ≤ 52) : (a - 2 ^ a.log2) * 2 ^ (52 - a.log2) < 2 ^ 52 := by
  have below : a - 2 ^ a.log2 < 2 ^ a.log2 := by have := Nat.lt_log2_self (n := a); omega
  calc (a - 2 ^ a.log2) * 2 ^ (52 - a.log2) < 2 ^ a.log2 * 2 ^ (52 - a.log2) := by gcongr
    _ = 2 ^ 52 := by rw [← pow_add, Nat.add_sub_cancel' log_le]

/-- R82: k is at most 15 for a magnitude of at most 65535. -/
theorem log2_le_fifteen {a : Nat} (a_pos : a ≠ 0) (a_le : a ≤ 65535) : a.log2 ≤ 15 :=
  Nat.le_of_lt_succ ((Nat.log2_lt a_pos).mpr (by omega))

section
variable {A N : Int} (A_ne : A ≠ 0) (A_le : A.natAbs ≤ 65535) (N_ge : -16 ≤ N) (N_le : N ≤ 15)
include A_ne A_le N_ge N_le

/-- The sign, the exponent and the fraction of R82 do not overlap: none of the three sums carries into the next field. -/
theorem packF64_fields :
    (packF64 A N).msb = decide (A < 0) ∧
    (f64Exponent (packF64 A N) : Int) = 1023 + A.natAbs.log2 + N ∧
    f64Fraction (packF64 A N) = (A.natAbs - 2 ^ A.natAbs.log2) * 2 ^ (52 - A.natAbs.log2) := by
  have log_le := log2_le_fifteen (Int.natAbs_ne_zero.mpr A_ne) A_le
  have frac_lt := fraction_lt (log_le.trans (by decide : 15 ≤ 52))
  rw [f64Exponent_eq_div, f64Fraction_eq_mod, BitVec.msb_eq_decide]
  simp only [packF64, if_neg A_ne, BitVec.toNat_ofNat, decide_eq_decide]
  generalize (A.natAbs - 2 ^ A.natAbs.log2) * 2 ^ (52 - A.natAbs.log2) = fraction at *
  generalize A.natAbs.log2 = k at *
  split <;> omega

theorem f64Finite_packF64_of_ne_zero : f64Finite (packF64 A N) = true := by
  obtain ⟨-, exponent, -⟩ := packF64_fields A_ne A_le N_ge N_le
  have log_le := log2_le_fifteen (Int.natAbs_ne_zero.mpr A_ne) A_le
  simp only [f64Finite, bne_iff_ne]
  omega

theorem f64Value_packF64_of_ne_zero : f64Value (packF64 A N) = A * (2 : ℚ) ^ N := by
  obtain ⟨sign, exponent, fraction⟩ := packF64_fields A_ne A_le N_ge N_le
  have log_le := log2_le_fifteen (Int.natAbs_ne_zero.mpr A_ne) A_le
  have normal : f64Exponent (packF64 A N) ≠ 0 := by omega
  have significand : f64Significand (packF64 A N) = A.natAbs * 2 ^ (52 - A.natAbs.log2) := by
    rw [f64Significand, if_neg normal, fraction,
      hiddenBit_add_fraction (Int.natAbs_ne_zero.mpr A_ne) (log_le.trans (by decide))]
  have scale : f64Scale (packF64 A N) = N - (52 - A.natAbs.log2 : Nat) := by
    rw [f64Scale, if_neg normal]
    omega
  have signed : (if A < 0 then -1 else 1 : ℚ) * A.natAbs = A := by
    rw [Nat.cast_natAbs, Int.cast_abs]
    split
    case isTrue neg => rw [abs_of_neg (Int.cast_lt_zero.mpr neg), neg_one_mul, neg_neg]
    case isFalse nonneg => rw [abs_of_nonneg (Int.cast_nonneg (not_lt.mp nonneg)), one_mul]
  calc f64Value (packF64 A N)
      = (if A < 0 then -1 else 1) * A.natAbs *
          ((2 : ℚ) ^ (52 - A.natAbs.log2) * (2 : ℚ) ^ (N - (52 - A.natAbs.log2 : Nat))) := by
        rw [f64Value, sign, significand, scale]
        push_cast
        simp only [decide_eq_true_eq]
        ring
    _ = A * (2 : ℚ) ^ N := by
        rw [signed, ← zpow_natCast, ← zpow_add₀ two_ne_zero, add_sub_cancel]

end

section
variable {A N : Int} (A_le : A.natAbs ≤ 65535) (N_ge : -16 ≤ N) (N_le : N ≤ 15)
include A_le N_ge N_le

theorem f64Finite_packF64 : f64Finite (packF64 A N) = true := by
  by_cases A_eq : A = 0
  · rw [A_eq, packF64_zero]; rfl
  · exact f64Finite_packF64_of_ne_zero A_eq A_le N_ge N_le

/-- R91: the product is exactly representable, so the pattern has exactly its value. -/
theorem f64Value_packF64 : f64Value (packF64 A N) = A * (2 : ℚ) ^ N := by
  by_cases A_eq : A = 0
  · rw [A_eq, packF64_zero, f64Value_zero, Int.cast_zero, zero_mul]
  · exact f64Value_packF64_of_ne_zero A_eq A_le N_ge N_le

theorem f64Value_packF64_bounds {lo hi : Int} (lo_le : lo ≤ A) (le_hi : A ≤ hi) (lo_nonpos : lo ≤ 0) (hi_nonneg : 0 ≤ hi) :
    (lo : ℚ) * 32768 ≤ f64Value (packF64 A N) ∧ f64Value (packF64 A N) ≤ (hi : ℚ) * 32768 := by
  have pow_le : (2 : ℚ) ^ N ≤ 32768 := (zpow_le_zpow_right₀ one_le_two N_le).trans (by norm_num)
  have lo_nonpos_rat : (lo : ℚ) ≤ 0 := mod_cast lo_nonpos
  rw [f64Value_packF64 A_le N_ge N_le]
  constructor
  · calc (lo : ℚ) * 32768 ≤ lo * 2 ^ N := mul_le_mul_of_nonpos_left pow_le lo_nonpos_rat
      _ ≤ A * 2 ^ N := by gcongr
  · calc (A : ℚ) * 2 ^ N ≤ hi * 2 ^ N := by gcongr
      _ ≤ hi * 32768 := by gcongr

/-- The smallest magnitude of R81 and R86: the integer is at least 1 and the exponent at least -16. -/
theorem smallest_le_abs_f64Value_packF64 (pattern_ne : packF64 A N ≠ 0) :
    (2 : ℚ) ^ (-16 : Int) ≤ |f64Value (packF64 A N)| := by
  have A_ne : A ≠ 0 := fun A_eq => pattern_ne (by rw [A_eq, packF64_zero])
  have one_le : (1 : ℚ) ≤ |(A : ℚ)| := mod_cast Int.one_le_abs A_ne
  rw [f64Value_packF64 A_le N_ge N_le, abs_mul, abs_zpow, abs_two]
  calc (2 : ℚ) ^ (-16 : Int) ≤ 2 ^ N := zpow_le_zpow_right₀ one_le_two N_ge
    _ ≤ |(A : ℚ)| * 2 ^ N := le_mul_of_one_le_left (zpow_nonneg zero_le_two N) one_le

end

/-! ### L11DEC (R81) -/

theorem l11Mantissa_bounds (w : Word) : -1024 ≤ l11Mantissa w ∧ l11Mantissa w ≤ 1023 :=
  ⟨(sext_bounds _).1, Int.le_of_lt_add_one (sext_bounds _).2⟩

theorem l11Exponent_bounds (w : Word) : -16 ≤ l11Exponent w ∧ l11Exponent w ≤ 15 :=
  ⟨(sext_bounds _).1, Int.le_of_lt_add_one (sext_bounds _).2⟩

theorem l11Mantissa_natAbs_le (w : Word) : (l11Mantissa w).natAbs ≤ 1024 := by
  have := l11Mantissa_bounds w
  omega

theorem f64Value_l11dec (w : Word) : f64Value (l11dec w) = (l11Mantissa w : ℚ) * (2 : ℚ) ^ l11Exponent w :=
  f64Value_packF64 ((l11Mantissa_natAbs_le w).trans (by decide)) (l11Exponent_bounds w).1 (l11Exponent_bounds w).2

/-- The value of a word whose two fields are known. -/
theorem f64Value_l11dec_of_fields {w : Word} {Y N : Int} (mantissa : l11Mantissa w = Y) (exponent : l11Exponent w = N) :
    f64Value (l11dec w) = (Y : ℚ) * (2 : ℚ) ^ N := by
  rw [f64Value_l11dec, mantissa, exponent]

/-- R81: a zero mantissa gives +0.0 under every exponent. -/
theorem l11dec_of_mantissa_zero {w : Word} (field_zero : l11MantissaField w = 0) : l11dec w = 0 := by
  simp [l11dec, l11Mantissa, field_zero]

/-- Settles O7: the value is that of the pattern `packF64` builds, its bounds are those of an 11-bit mantissa, and R81's examples
are evaluated through their fields. -/
theorem linearElevenDecode : Obligations.LinearElevenDecode := by
  refine ⟨fun s w => ?every, ?largest, ?least, ?smallest, ?smallestNegative, by decide, by decide, ?one, ?twelveAndHalf,
    fun w => ⟨rfl, rfl⟩⟩
  case every =>
    have A_le := (l11Mantissa_natAbs_le w).trans (by decide : 1024 ≤ 65535)
    obtain ⟨N_ge, N_le⟩ := l11Exponent_bounds w
    obtain ⟨Y_ge, Y_le⟩ := l11Mantissa_bounds w
    obtain ⟨lower, upper⟩ := f64Value_packF64_bounds A_le N_ge N_le Y_ge Y_le (by decide) (by decide)
    exact ⟨l11dec w, rfl, f64Finite_packF64 A_le N_ge N_le, f64Value_l11dec w, l11dec_of_mantissa_zero,
      upper.trans (by norm_num), le_trans (by norm_num) lower, smallest_le_abs_f64Value_packF64 A_le N_ge N_le⟩
  case largest => rw [f64Value_l11dec_of_fields (Y := 1023) (N := 15) rfl rfl]; norm_num
  case least => rw [f64Value_l11dec_of_fields (Y := -1024) (N := 15) rfl rfl]; norm_num
  case smallest => rw [f64Value_l11dec_of_fields (Y := 1) (N := -16) rfl rfl]; norm_num
  case smallestNegative => rw [f64Value_l11dec_of_fields (Y := -1) (N := -16) rfl rfl]; norm_num
  case one => rw [f64Value_l11dec_of_fields (Y := 1) (N := 0) rfl rfl]; norm_num
  case twelveAndHalf => rw [f64Value_l11dec_of_fields (Y := 50) (N := -2) rfl rfl]; norm_num

/-! ### VMEXP, L16DEC and RAWNUM (R85 to R87) -/

theorem vmexp_bounds (vm : Word) : -16 ≤ vmexp vm ∧ vmexp vm ≤ 15 :=
  ⟨(sext_bounds _).1, Int.le_of_lt_add_one (sext_bounds _).2⟩

theorem word_natAbs_le (w : Word) : (w.toNat : Int).natAbs ≤ 65535 := Nat.le_of_lt_succ w.isLt

theorem f64Value_l16dec (w vm : Word) : f64Value (l16dec w vm) = (w.toNat : ℚ) * (2 : ℚ) ^ vmexp vm := by
  rw [l16dec, f64Value_packF64 (word_natAbs_le w) (vmexp_bounds vm).1 (vmexp_bounds vm).2, Int.cast_natCast]

/-- The value of a word and a VOUT_MODE word whose numbers are known. -/
theorem f64Value_l16dec_of_fields {w vm : Word} {W : Nat} {N : Int} (word : w.toNat = W) (exponent : vmexp vm = N) :
    f64Value (l16dec w vm) = (W : ℚ) * (2 : ℚ) ^ N := by
  rw [f64Value_l16dec, word, exponent]

/-- RAWNUM is L16DEC of a VOUT_MODE word with exponent 0. -/
theorem rawnum_eq_l16dec (w : Word) : rawnum w = l16dec w 0x0000 := rfl

theorem f64Value_rawnum (w : Word) : f64Value (rawnum w) = w.toNat := by
  rw [rawnum_eq_l16dec, f64Value_l16dec_of_fields (N := 0) rfl rfl, zpow_zero, mul_one]

/-- Settles O8: VMEXP answers the sign-extended field, whose bounds are those of 5 bits. -/
theorem voutModeExponent : Obligations.VoutModeExponent :=
  ⟨fun _ vm => ⟨vmexp vm, rfl, rfl, vmexp_bounds vm⟩, by decide, by decide, by decide, by decide, by decide, by decide,
    by decide, fun _ => ⟨rfl, rfl⟩⟩

/-- Settles O9: as L11DEC, with an unsigned word in place of the mantissa. -/
theorem linearSixteenDecode : Obligations.LinearSixteenDecode := by
  refine ⟨fun s w vm => ?every, ?largest, ?smallest, fun vm => ?unsigned, ?thirteen, fun w vm => ⟨rfl, rfl⟩⟩
  case every =>
    have A_le := word_natAbs_le w
    obtain ⟨N_ge, N_le⟩ := vmexp_bounds vm
    have w_le : (w.toNat : Int) ≤ 65535 := Int.ofNat_le.mpr A_le
    obtain ⟨lower, upper⟩ := f64Value_packF64_bounds A_le N_ge N_le (Int.natCast_nonneg _) w_le le_rfl (by decide)
    have nonneg : 0 ≤ f64Value (l16dec w vm) := le_trans (by norm_num) lower
    have smallest := smallest_le_abs_f64Value_packF64 A_le N_ge N_le
    exact ⟨l16dec w vm, rfl, f64Finite_packF64 A_le N_ge N_le, f64Value_l16dec w vm, fun w_eq => by rw [w_eq]; rfl,
      upper.trans (by norm_num), nonneg, fun v_ne => (smallest v_ne).trans_eq (abs_of_nonneg nonneg)⟩
  case largest => rw [f64Value_l16dec_of_fields (W := 65535) (N := 15) rfl rfl]; norm_num
  case smallest => rw [f64Value_l16dec_of_fields (W := 1) (N := -16) rfl rfl]; norm_num
  case unsigned => exact f64Value_l16dec_of_fields rfl rfl
  case thirteen => rw [f64Value_l16dec_of_fields (W := 6656) (N := -9) rfl rfl]; norm_num

/-- Settles O10: RAWNUM is L16DEC at exponent 0, so its value is the word itself. -/
theorem rawWordAsNumber : Obligations.RawWordAsNumber := by
  refine ⟨fun s w => ?every, rfl, f64Value_rawnum 0xFFFF, f64Value_rawnum 0x8000, f64Value_rawnum 0x0842,
    fun w => ⟨rfl, rfl⟩⟩
  case every =>
    exact ⟨rawnum w, rfl, f64Finite_packF64 (word_natAbs_le w) (by decide) (by decide), f64Value_rawnum w,
      rawnum_eq_l16dec w⟩

end Sys2Proof.Machine
end

section
/-! The status-word, ASCII block and BCD revision decoders (41_codec_status_text.md R100 to R104). -/

namespace Sys2Proof.Machine

/-! ### STSDEC (R100) -/

theorem statusBits_eq_reverse_finRange : statusBits = (List.finRange 16).reverse := rfl

theorem mem_statusList {w : Word} {i : Fin 16} : i ∈ statusList w ↔ w.getLsbD i.val = true := by
  simp [statusList, statusBits_eq_reverse_finRange]

/-- The order of `statusBits` is the order of LIST: a filter drops entries and moves none. -/
theorem statusList_strictly_descending (w : Word) : (statusList w).Pairwise (fun i j => j < i) := by
  have bits_descend : statusBits.Pairwise (fun i j => j < i) := by decide
  exact bits_descend.filter _

/-- R100 (d): the length of LIST is the number of 1 bits. -/
theorem length_statusList (w : Word) :
    (statusList w).length = ((List.finRange 16).filter fun i => w.getLsbD i.val).length := by
  rw [statusList, statusBits_eq_reverse_finRange, List.filter_reverse, List.length_reverse]

theorem noFaultFlag_iff {w : Word} : noFaultFlag w = true ↔ w = 0 := beq_iff_eq

/-- A word with no bit in LIST has no bit at all. -/
theorem statusList_eq_nil_iff {w : Word} : statusList w = [] ↔ w = 0 := by
  constructor
  case mp =>
    intro empty
    apply BitVec.eq_of_getLsbD_eq
    intro i i_lt
    have not_listed : (⟨i, i_lt⟩ : Fin 16) ∉ statusList w := by rw [empty]; exact List.not_mem_nil
    rw [mem_statusList, Bool.not_eq_true] at not_listed
    exact not_listed.trans BitVec.getLsbD_zero.symm
  case mpr => rintro rfl; rfl

theorem statusTexts_eq (p : Params) (w : Word) :
    statusTexts p w = if w = 0 then [p.noFaultText] else (statusList w).map fun i => p.statusTable[i] := by
  simp only [statusTexts, noFaultFlag_iff]

/-- Settles O14: STSDEC answers LIST, NOFAULT and TEXTS, and each clause is a rule of one of the three. -/
theorem statusWordDecode : Obligations.StatusWordDecode := by
  refine ⟨fun s w => ?every, fun w => ⟨rfl, rfl⟩⟩
  case every =>
    refine ⟨statusList w, noFaultFlag w, statusTexts s.params w, rfl, fun i => mem_statusList,
      statusList_strictly_descending w, noFaultFlag_iff, noFaultFlag_iff.trans statusList_eq_nil_iff.symm,
      length_statusList w, statusTexts_eq s.params w, ?voutFault, ?allFaults⟩
    case voutFault => rintro rfl; decide
    case allFaults => rintro rfl; decide

/-! ### ASCDEC (R102) -/

/-- The clamp of R102 is what `take` does by itself: it stops at the end of the data. -/
theorem ascBytes_cons (declared : Byte) (data : List Byte) : ascBytes (declared :: data) = data.take declared.toNat :=
  List.take_eq_take_min.symm

theorem ascdec_cons (declared : Byte) (data : List Byte) :
    ascdec (declared :: data) = some ((data.take declared.toNat).map char7) := by
  rw [← ascBytes_cons]; rfl

theorem char7_of_lt {x : Byte} (ascii : x.toNat < 0x80) : char7 x = Char.ofNat x.toNat := if_pos ascii

theorem execAscdec_of_eq_some {b : List Byte} {text : List Char} (decoded : ascdec b = some text) (s : State) :
    exec (.ascdec b) s = answer (.text text) s := by
  have arm : exec (.ascdec b) s = execAscdec b s := rfl
  rw [arm, execAscdec, decoded]

/-- Settles O15: ASCDEC answers the first `declared` bytes of the data, as far as there are any, each through `char7`. -/
theorem asciiBlockDecode : Obligations.AsciiBlockDecode := by
  refine ⟨fun s declared data => ?every, fun s => rfl, fun b => ⟨rfl, rfl⟩⟩
  case every =>
    refine ⟨_, execAscdec_of_eq_some (ascdec_cons declared data) s, ?length, fun i i_lt ascii => ?character⟩
    case length => rw [List.length_map, List.length_take]
    case character =>
      rw [List.length_map, List.length_take, Nat.lt_min] at i_lt
      obtain ⟨i_lt_declared, i_lt_length⟩ := i_lt
      rw [List.getElem?_map, List.getElem?_take_of_lt i_lt_declared, ← char7_of_lt ascii,
        List.getElem?_eq_getElem i_lt_length, List.getD_eq_getElem data 0 i_lt_length]
      rfl

/-! ### BCDREV (R104) -/

theorem revHigh_toNat (w : Word) : (revHigh w).toNat = w.toNat / 16 % 16 := by
  rw [revHigh, BitVec.extractLsb'_toNat, Nat.shiftRight_eq_div_pow]

theorem revLow_toNat (w : Word) : (revLow w).toNat = w.toNat % 16 := by
  rw [revLow, BitVec.extractLsb'_toNat, Nat.shiftRight_zero]

/-- The model's two branches, one digit and two, are the library's decimal numeral. -/
theorem decNibble_eq_toString (x : BitVec 4) : decNibble x = (toString x.toNat).toList := by
  revert x; decide

theorem revText_eq (w : Word) :
    revText w = (toString (revHigh w).toNat).toList ++ '.' :: (toString (revLow w).toNat).toList := by
  rw [revText, decNibble_eq_toString, decNibble_eq_toString]

/-- Settles O16: the nibbles are the fields of the word, and the text is the two numerals. -/
theorem revisionDecode : Obligations.RevisionDecode := by
  refine ⟨fun s w => ?every, rfl, rfl, rfl, rfl, fun w => ⟨rfl, rfl⟩⟩
  case every => exact ⟨revHigh w, revLow w, revText w, rfl, revHigh_toNat w, revLow_toNat w, revText_eq w⟩

end Sys2Proof.Machine
end

section
/-! The FRAMER's reports (42_framer.md R120 to R123): where FRAMEW and FRAMER put each of the L_OUT bytes, and what PARSEACK and
PARSERD read of an inbound report. -/

namespace Sys2Proof.Machine

/-! ### Filling a report up to L_OUT (R56) -/

theorem getElem?_fillTo_of_lt (p : Params) {bs : List Byte} {i : Nat} (inside : i < bs.length) :
    (fillTo p bs)[i]? = bs[i]? :=
  List.getElem?_append_left inside

theorem getElem?_fillTo_of_ge {p : Params} {bs : List Byte} {j : Nat} (beyond : bs.length ≤ j) (j_lt : j < p.lOut) :
    (fillTo p bs)[j]? = some p.fill := by
  rw [fillTo, List.getElem?_append_right beyond, List.getElem?_replicate_of_lt (Nat.sub_lt_sub_right beyond j_lt)]

/-! ### FRAMEW (R120) -/

theorem frameW_eq_fillTo (p : Params) (a : Addr) (pay : List Byte) :
    frameW p a pay = fillTo p (0x00 :: 0x57 :: addrByteW a :: BitVec.ofNat 8 pay.length :: pay) := rfl

/-- The payload stands behind the four header bytes. -/
theorem getElem?_frameW_payload (p : Params) (a : Addr) {pay : List Byte} {i : Nat} (i_lt : i < pay.length) :
    (frameW p a pay)[4 + i]? = pay[i]? := by
  have inside : 4 + i < pay.length + 4 := by omega
  rw [frameW_eq_fillTo, getElem?_fillTo_of_lt p inside, Nat.add_comm 4 i]
  rfl

theorem getElem?_frameW_fill {p : Params} (a : Addr) {pay : List Byte} {j : Nat} (beyond : 4 + pay.length ≤ j)
    (j_lt : j < p.lOut) : (frameW p a pay)[j]? = some p.fill := by
  rw [Nat.add_comm] at beyond
  rw [frameW_eq_fillTo, getElem?_fillTo_of_ge beyond j_lt]

/-! ### FRAMER (R121) -/

theorem getElem?_frameR_fill {p : Params} (a : Addr) (n : Byte) {j : Nat} (beyond : 4 ≤ j) (j_lt : j < p.lOut) :
    (frameR p a n)[j]? = some p.fill :=
  getElem?_fillTo_of_ge beyond j_lt

/-- Settles O19: a report is its four header bytes, then the payload of a write, then FILL up to L_OUT; R54 gives the value of the
address byte. -/
theorem reportLayouts : Obligations.ReportLayouts := by
  refine ⟨fun p a pay pay_le => ?write, fun p a n => ?read, by decide, by decide⟩
  case write =>
    exact ⟨frameW_length p a pay pay_le, rfl, rfl, ⟨_, rfl, addrByteW_toNat a⟩, rfl,
      fun i i_lt => getElem?_frameW_payload p a i_lt, fun j beyond j_lt => getElem?_frameW_fill a beyond j_lt⟩
  case read =>
    exact ⟨frameR_length p a n, rfl, rfl, ⟨_, rfl, addrByteR_toNat a⟩, rfl,
      fun j beyond j_lt => getElem?_frameR_fill a n beyond j_lt⟩

/-! ### PARSEACK (R122) -/

/-- The model's default for a missing first byte is not 0x01, so its test says that the byte is there. -/
theorem firstByte_eq_ackOk_iff {r : List Byte} : r.getD 0 0 = Config.ackOk ↔ r[0]? = some 0x01 := by
  cases r with
  | nil => decide
  | cons first rest => exact (Option.some_inj (a := first) (b := 0x01)).symm

theorem parseAck_eq_true_iff {r : List Byte} : parseAck r = true ↔ 1 ≤ r.length ∧ r[0]? = some 0x01 := by
  rw [parseAck, Bool.and_eq_true, decide_eq_true_iff, beq_iff_eq, firstByte_eq_ackOk_iff]

/-- With a first byte there, no later byte and no length counts. -/
theorem parseAck_cons {b : Byte} {r : List Byte} : parseAck (b :: r) = true ↔ b = 0x01 := by
  rw [parseAck_eq_true_iff, List.getElem?_cons_zero, Option.some_inj]
  exact and_iff_right (Nat.succ_pos r.length)

/-! ### PARSERD (R123) -/

/-- The clamp of R123 is what `take` does by itself: it stops at the end of the data. -/
theorem parseRd_eq_take {r : List Byte} {dlen : Byte} (long : 2 < r.length) (ack : r[0]? = some 0x01)
    (declared : r[1]? = some dlen) : parseRd r = some ((r.drop 2).take dlen.toNat) := by
  have declared_getD : r.getD 1 0 = dlen := by rw [List.getD_eq_getElem?_getD, declared, Option.getD_some]
  rw [parseRd, if_pos ⟨long, firstByte_eq_ackOk_iff.mpr ack⟩, declared_getD, ← List.length_drop,
    ← List.take_eq_take_min]

theorem parseRd_eq_none_iff {r : List Byte} : parseRd r = none ↔ r.length ≤ 2 ∨ r[0]? ≠ some 0x01 := by
  rw [parseRd, ite_eq_right_iff, firstByte_eq_ackOk_iff]
  simp only [reduceCtorEq, imp_false, not_and_or, not_lt, ne_eq]

/-- `take` and `drop` in the words of R123: how many entries, and which. -/
theorem take_drop_eq_iff {α : Type} {r d : List α} {k n : Nat} :
    (r.drop k).take n = d ↔
      d.length = min n (r.length - k) ∧ ∀ i : Nat, i < d.length → d[i]? = r[k + i]? := by
  constructor
  case mp =>
    rintro rfl
    have length : ((r.drop k).take n).length = min n (r.length - k) := by rw [List.length_take, List.length_drop]
    refine ⟨length, fun i i_lt => ?_⟩
    rw [length, Nat.lt_min] at i_lt
    rw [List.getElem?_take_of_lt i_lt.1, List.getElem?_drop]
  case mpr =>
    rintro ⟨length, agree⟩
    apply List.ext_getElem?'
    intro i i_lt
    rw [List.length_take, List.length_drop, ← length, max_self] at i_lt
    rw [agree i i_lt, List.getElem?_take_of_lt (by omega), List.getElem?_drop]

theorem parseRd_eq_some_iff {r d : List Byte} :
    parseRd r = some d ↔ 2 < r.length ∧ r[0]? = some 0x01 ∧
      ∃ dlen : Byte, r[1]? = some dlen ∧ d.length = min dlen.toNat (r.length - 2) ∧
        ∀ i : Nat, i < d.length → d[i]? = r[2 + i]? := by
  constructor
  case mp =>
    intro parsed
    have not_none : ¬ (r.length ≤ 2 ∨ r[0]? ≠ some 0x01) := fun fails =>
      Option.some_ne_none d (parsed.symm.trans (parseRd_eq_none_iff.mpr fails))
    rw [not_or, not_le, not_not] at not_none
    obtain ⟨long, ack⟩ := not_none
    have declared : r[1]? = some r[1] := List.getElem?_eq_getElem (by omega)
    rw [parseRd_eq_take long ack declared, Option.some_inj, take_drop_eq_iff] at parsed
    exact ⟨long, ack, r[1], declared, parsed⟩
  case mpr =>
    rintro ⟨long, ack, dlen, declared, data⟩
    rw [parseRd_eq_take long ack declared, take_drop_eq_iff.mpr data]

/-- Settles O20: each parse is characterised by its success test, PARSERD's data by `take`, and the rules' examples are
evaluated. -/
theorem parseRules : Obligations.ParseRules := by
  refine ⟨⟨fun r => parseAck_eq_true_iff, fun b r r' => ?firstByteAlone, by decide⟩,
    fun r d => parseRd_eq_some_iff, fun r => parseRd_eq_none_iff, by decide⟩
  case firstByteAlone =>
    rw [Bool.eq_iff_iff, parseAck_cons, parseAck_cons]

end Sys2Proof.Machine
end

section
/-! The command catalogue (44_catalogue_and_composites.md R171 to R178). A sequence of one transport operation is that operation with
another continuation. What no operation writes, the continuation included, goes through it unchanged, and of that it reads its
operands and the parameters alone; so the sequence does what the bare operation does, and differs in what is delivered. -/

namespace Sys2Proof.Machine

/-! ### What no operation writes (R5, R15, R16) -/

/-- `s` with everything that no operation writes once its operands are latched taken from `t`. -/
def withUnwritten (t s : State) : State :=
  { s with
    params := t.params, op := t.op, addr := t.addr, cmd := t.cmd, wdata := t.wdata, port := t.port, issuer := t.issuer
    turns := t.turns, cont := t.cont, delivered := t.delivered, draws := t.draws }

@[simp] theorem withUnwritten_addr (t s : State) : (withUnwritten t s).addr = t.addr := rfl
@[simp] theorem withUnwritten_cmd (t s : State) : (withUnwritten t s).cmd = t.cmd := rfl
@[simp] theorem withUnwritten_wdata (t s : State) : (withUnwritten t s).wdata = t.wdata := rfl

/-- `s` and `t` agree on what an operation reads of the things it does not write. -/
structure SameInputs (s t : State) : Prop where
  params : t.params = s.params
  addr : t.addr = s.addr
  cmd : t.cmd = s.cmd
  wdata : t.wdata = s.wdata

theorem SameInputs.refl (s : State) : SameInputs s s := ⟨rfl, rfl, rfl, rfl⟩

/-- `f` writes nothing of what no operation writes, and reads of it the inputs alone. At `t = s` this is the frame of `f`. -/
def CarriesUnwritten {α : Type} (f : State → α × State) : Prop :=
  ∀ s t : State, SameInputs s t → f (withUnwritten t s) = Prod.map id (withUnwritten t) (f s)

/-- A run of `f` with other unwritten contents; what comes after it finds the same inputs. -/
theorem CarriesUnwritten.run {α : Type} {f : State → α × State} (carries : CarriesUnwritten f) {s s' t : State} {x : α}
    (same : SameInputs s t) (ran : f s = (x, s')) :
    f (withUnwritten t s) = (x, withUnwritten t s') ∧ SameInputs s' t := by
  have frame : f s = Prod.map id (withUnwritten s) (f s) := carries s s (SameInputs.refl s)
  have kept : s' = withUnwritten s s' := by rw [ran] at frame; exact congrArg Prod.snd frame
  refine ⟨(carries s t same).trans (by rw [ran]; rfl), ?_⟩
  rw [kept]
  exact ⟨same.params, same.addr, same.cmd, same.wdata⟩

/-! ### The exchanges (R124, R125) -/

theorem sendWrite_carriesUnwritten (a : Addr) (pay : List Byte) : CarriesUnwritten (sendWrite a pay) := by
  rintro s ⟨⟩ ⟨rfl, rfl, rfl, rfl⟩
  rcases le_or_gt pay.length Config.maxPayload with fits | tooLong
  · cases handed : s.link.nextWrite
    case ok => rw [sendWrite_ok fits handed]; exact sendWrite_ok fits handed
    case error => rw [sendWrite_error fits handed]; exact sendWrite_error fits handed
  · rw [sendWrite_tooLong tooLong, sendWrite_tooLong tooLong]; rfl

theorem sendRead_carriesUnwritten (a : Addr) (n : Nat) : CarriesUnwritten (sendRead a n) := by
  rintro s ⟨⟩ ⟨rfl, rfl, rfl, rfl⟩
  rcases le_or_gt n Config.maxPayload with fits | tooLong
  · cases handed : s.link.nextWrite
    case ok => rw [sendRead_ok fits handed]; exact sendRead_ok fits handed
    case error => rw [sendRead_error fits handed]; exact sendRead_error fits handed
  · rw [sendRead_tooLong tooLong, sendRead_tooLong tooLong]; rfl

theorem recvAck_carriesUnwritten : CarriesUnwritten recvAck := by
  rintro s ⟨⟩ ⟨rfl, rfl, rfl, rfl⟩
  rw [recvAck_eq, recvAck_eq]
  simp only [withUnwritten]
  cases s.link.nextRead s.params.lIn
  case timeout => rfl
  case error => rfl
  case report r => dsimp only; split <;> rfl

theorem recvData_carriesUnwritten : CarriesUnwritten recvData := by
  rintro s ⟨⟩ ⟨rfl, rfl, rfl, rfl⟩
  rw [recvData_eq, recvData_eq]
  simp only [withUnwritten]
  cases s.link.nextRead s.params.lIn
  case timeout => rfl
  case error => rfl
  case report r => dsimp only; split <;> rfl

theorem xwrite_carriesUnwritten (a : Addr) (pay : List Byte) : CarriesUnwritten (xwrite a pay) := by
  intro s t same
  rcases sent : sendWrite a pay s with ⟨taken, s'⟩
  obtain ⟨sent', same'⟩ := (sendWrite_carriesUnwritten a pay).run same sent
  simp only [xwrite, sent, sent']
  cases taken
  case false => rfl
  case true => exact recvAck_carriesUnwritten s' t same'

theorem xread_carriesUnwritten (a : Addr) (n : Nat) : CarriesUnwritten (xread a n) := by
  intro s t same
  rcases sent : sendRead a n s with ⟨taken, s'⟩
  obtain ⟨sent', same'⟩ := (sendRead_carriesUnwritten a n).run same sent
  simp only [xread, sent, sent']
  cases taken
  case false => rfl
  case true => exact recvData_carriesUnwritten s' t same'

/-! ### The bodies of SENDBYTE, WRITEWORD and READWORD (R144 to R146) -/

/-- The body of the operation `c` carries what is unwritten along. -/
def BodyCarriesUnwritten (c : Call) : Prop :=
  ∀ s t : State, SameInputs s t → bodyOf c.op (withUnwritten t s) = withUnwritten t (bodyOf c.op s)

theorem sendbyte_bodyCarriesUnwritten (a : Addr) (c : Byte) : BodyCarriesUnwritten (.sendbyte a c) := by
  intro s t same
  rcases ran : xwrite t.addr [t.cmd] s with ⟨ok, s'⟩
  obtain ⟨ran', -⟩ := (xwrite_carriesUnwritten t.addr [t.cmd]).run same ran
  simp only [Call.op, bodyOf, bodySendbyte, withUnwritten_addr, withUnwritten_cmd, ← same.addr, ← same.cmd, ran, ran']
  rfl

theorem writeword_bodyCarriesUnwritten (a : Addr) (c : Byte) (v : Word) : BodyCarriesUnwritten (.writeword a c v) := by
  intro s t same
  rcases ran : xwrite t.addr (t.cmd :: le16 t.wdata) s with ⟨ok, s'⟩
  obtain ⟨ran', -⟩ := (xwrite_carriesUnwritten t.addr (t.cmd :: le16 t.wdata)).run same ran
  simp only [Call.op, bodyOf, bodyWriteword, withUnwritten_addr, withUnwritten_cmd, withUnwritten_wdata, ← same.addr,
    ← same.cmd, ← same.wdata, ran, ran']
  rfl

theorem takeWord_withUnwritten (d : Option (List Byte)) (s t : State) :
    takeWord d (withUnwritten t s) = withUnwritten t (takeWord d s) := by
  unfold takeWord
  split <;> rfl

/-- The second exchange of READWORD, after the settle time. -/
theorem readPhase_carriesUnwritten (a : Addr) :
    CarriesUnwritten fun s => xread a Config.wordReadLen (endSettle (startSettle s)) :=
  fun s t same => xread_carriesUnwritten a Config.wordReadLen (endSettle (startSettle s)) t
    ⟨same.params, same.addr, same.cmd, same.wdata⟩

theorem readword_bodyCarriesUnwritten (a : Addr) (c : Byte) : BodyCarriesUnwritten (.readword a c) := by
  intro s t same
  rcases wrote : xwrite t.addr [t.cmd] s with ⟨acked, s'⟩
  obtain ⟨wrote', same'⟩ := (xwrite_carriesUnwritten t.addr [t.cmd]).run same wrote
  simp only [Call.op, bodyOf, bodyReadword, withUnwritten_addr, withUnwritten_cmd, ← same.addr, ← same.cmd, wrote, wrote']
  cases acked
  case false => rfl
  case true =>
    rcases read : xread t.addr Config.wordReadLen (endSettle (startSettle s')) with ⟨d, s''⟩
    obtain ⟨read', -⟩ := (readPhase_carriesUnwritten t.addr).run same' read
    simp only [withUnwritten_addr, ← same'.addr, read, read', takeWord_withUnwritten]

/-! ### A whole operation (R140) -/

theorem acquire_sameInputs (c : Call) (k k' : Cont) (s : State) : SameInputs (acquire c k s) (acquire c k' s) := by
  cases c <;> exact ⟨rfl, rfl, rfl, rfl⟩

/-- Of the state after the prologue only what is unwritten depends on the continuation. -/
theorem acquire_eq_withUnwritten (c : Call) (k k' : Cont) (s : State) :
    acquire c k' s = withUnwritten (acquire c k' s) (acquire c k s) := by
  cases c <;> rfl

theorem setNegative_withUnwritten {s t : State} (same_op : t.op = s.op) :
    setNegative (withUnwritten t s) = withUnwritten t (setNegative s) := by
  rcases t with ⟨⟩
  obtain rfl := same_op
  cases h : s.op <;> simp only [setNegative, withUnwritten, h]

@[simp] theorem acquire_connected (c : Call) (k : Cont) (s : State) : (acquire c k s).connected = s.connected := by
  rw [connected_def, acquire_handle, connected_def]

section
variable {c : Call} (body : BodyCarriesUnwritten c) (k k' : Cont) (s : State)
include body

theorem runBody_acquire_withUnwritten :
    runBody (acquire c k' s) = withUnwritten (acquire c k' s) (runBody (acquire c k s)) := by
  simp only [runBody, acquire_op, acquire_connected]
  split
  case isTrue =>
    have negative := setNegative_withUnwritten (s := { acquire c k s with cause := .notConnected })
      (t := acquire c k' s) (by simp only [acquire_op])
    rw [raise, acquire_eq_withUnwritten c k k' s]
    exact congrArg finish negative
  case isFalse =>
    conv_lhs => rw [acquire_eq_withUnwritten c k k' s, body _ _ (acquire_sameInputs c k k' s)]
    rfl

/-- From Acquire to Release an operation carries its continuation along, and all else that is unwritten. -/
theorem operate_eq_withUnwritten :
    operate c k' s = withUnwritten (acquire c k' s) (operate c k s) := by
  rw [operate, runBody_acquire_withUnwritten body k k' s]
  rfl

theorem operate_eq_setCont : operate c k' s = { operate c k s with cont := k' } := by
  rw [operate_eq_withUnwritten body k k' s, operate_eq_withUnwritten body k k s]
  cases c <;> rfl

theorem operate_params : (operate c k s).params = s.params := by
  rw [operate_eq_withUnwritten body k k s]
  exact acquire_params c k s

theorem operate_delivered : (operate c k s).delivered = s.delivered := by
  rw [operate_eq_withUnwritten body k k s]
  exact acquire_delivered c k s

/-- R15: the operand latches at the end hold what the prologue put there. -/
theorem operate_operands :
    (operate c k s).op = c.op ∧ (operate c k s).addr = (acquire c k s).addr ∧
      (operate c k s).cmd = (acquire c k s).cmd ∧ (operate c k s).wdata = (acquire c k s).wdata := by
  rw [operate_eq_withUnwritten body k k s]
  exact ⟨acquire_op c k s, rfl, rfl, rfl⟩

end

/-! ### Sequences of one operation (R170) -/

/-- A sequence that goes on with no further operation ends where the bare operation ends, but for its continuation and what it
delivers: its conclusion looks at the results and the parameters alone. -/
theorem performCall_continued {c : Call} (body : BodyCarriesUnwritten c) {k : Cont} (last : ∀ t, nextCall k t = none)
    (s : State) :
    performCall c k s =
      { performCall c .plain s with
        cont := k, delivered := ⟨s.issuer, conclusion k (performCall c .plain s)⟩ :: s.delivered } := by
  have concluded : conclusion k { operate c .plain s with cont := k } = conclusion k (performCall c .plain s) := by
    rw [performCall_plain]
    cases k <;> rfl
  calc performCall c k s
      = deliver s.issuer (conclusion k (operate c k s)) (operate c k s) := by simp only [performCall, last]
    _ = { performCall c .plain s with
          cont := k
          delivered := ⟨s.issuer, conclusion k (performCall c .plain s)⟩ :: (operate c .plain s).delivered } := by
        rw [operate_eq_setCont body .plain k s, concluded]; rfl
    _ = _ := by rw [operate_delivered body]

/-- READWORD, and a sequence whose one operation it is. -/
theorem readword_continued {k : Cont} (last : ∀ t, nextCall k t = none) {s : State} (free : s.lock = .free) {a : Addr}
    (valid : addrOk a = true) (c : Byte) :
    ∃ u : State, exec (.readword a c) s = .next u ∧ u.params = s.params ∧
      runCall (.readword a c) k s =
        .next { u with cont := k, delivered := ⟨s.issuer, conclusion k u⟩ :: s.delivered } := by
  have body := readword_bodyCarriesUnwritten a c
  have runs (k : Cont) : runCall (.readword a c) k s = .next (performCall (.readword a c) k s) :=
    runCall_runs valid free rfl
  refine ⟨performCall (.readword a c) .plain s, runs .plain, operate_params body .plain s, ?_⟩
  rw [runs k, performCall_continued body last]

theorem exec_eq_rdL11_of_mem {a : Addr} {i : Instr} {c : Byte}
    (row : (i, c) ∈ [(Instr.readVin a, 0x88#8), (.readIout a, 0x8C#8), (.readTemperature1 a, 0x8D#8),
      (.voutOvFaultLimit a .read, 0x40#8), (.ioutOcFaultLimit a .read, 0x46#8), (.otFaultLimit a .read, 0x4F#8)])
    (s : State) : exec i s = rdL11 a c s := by
  simp only [List.mem_cons, List.not_mem_nil, or_false, Prod.mk.injEq] at row
  rcases row with ⟨rfl, rfl⟩ | ⟨rfl, rfl⟩ | ⟨rfl, rfl⟩ | ⟨rfl, rfl⟩ | ⟨rfl, rfl⟩ | ⟨rfl, rfl⟩ <;> rfl

/-- Settles O37: each of the six rows is READWORD with the continuation L11DEC. -/
theorem readLinearElevenRegisters : Obligations.ReadLinearElevenRegisters := by
  refine ⟨fun s a i c free valid row => ?rows, by decide⟩
  case rows =>
    obtain ⟨u, ran, -, continued⟩ := readword_continued (k := .l11) (fun _ => rfl) free valid c
    rw [exec_eq_rdL11_of_mem row s, rdL11, continued]
    exact ⟨u, ran, fun noWord => by rw [conclusion, noWord, ofRaw], fun w word => by rw [conclusion, word, ofRaw]⟩

/-- Settles O39: both rows are READWORD with their decoder as continuation; the status texts are those of the parameters at the start,
which no operation writes. -/
theorem readStatusAndRevision : Obligations.ReadStatusAndRevision := by
  intro s a free valid
  refine ⟨?status, ?revision, by decide⟩
  case status =>
    obtain ⟨u, ran, params, continued⟩ := readword_continued (k := .status) (fun _ => rfl) free valid 0x79
    have row : exec (.statusWord a) s = runCall (.readword a 0x79) .status s := rfl
    rw [row, continued]
    refine ⟨u, ran, fun noWord => by rw [conclusion, noWord, ofRaw], fun w word => ?decoded⟩
    case decoded =>
      exact ⟨_, _, _, rfl, by rw [conclusion, word, ofRaw, params]⟩
  case revision =>
    obtain ⟨u, ran, -, continued⟩ := readword_continued (k := .rev) (fun _ => rfl) free valid 0x98
    have row : exec (.pmbusRevision a) s = runCall (.readword a 0x98) .rev s := rfl
    rw [row, continued]
    exact ⟨u, ran, fun noWord => by rw [conclusion, noWord, ofRaw], fun w word => by rw [conclusion, word, ofRaw]⟩

/-! ### CLRFLT and OPER_ON (R177, R178) -/

/-- Settles O42: the two rows are calls of the same operation as the operation's own row, and no operation writes its operands. -/
theorem clearFaultsAndTurnOn : Obligations.ClearFaultsAndTurnOn := by
  intro s a free valid
  constructor
  case left =>
    have ran : exec (.sendbyte a 0x03) s = .next (performCall (.sendbyte a 0x03) .plain s) := runCall_runs valid free rfl
    obtain ⟨op, addr, cmd, -⟩ := operate_operands (sendbyte_bodyCarriesUnwritten a 0x03) .plain s
    exact ⟨_, ran, ran, op, addr, cmd⟩
  case right =>
    have ran : exec (.writeword a 0x01 0x0080) s = .next (performCall (.writeword a 0x01 0x0080) .plain s) :=
      runCall_runs valid free rfl
    obtain ⟨op, addr, cmd, wdata⟩ := operate_operands (writeword_bodyCarriesUnwritten a 0x01 0x0080) .plain s
    exact ⟨_, ran, ran, op, addr, cmd, wdata⟩

end Sys2Proof.Machine
end

section
/-! Decoding undoes encoding (30_encoding.md R51 to R66): the operand bytes of log 1 and the fields of a report are read back, so a
well-formed instruction and a built report are decoded as themselves. -/

namespace Sys2Proof.Machine

/-! ### Operand bytes (log 1) -/

theorem addrOperand_addrOperandByte (a : Addr) : Decode.addrOperand (Decode.addrOperandByte a) = a := by
  have narrowed : ((a - Config.addrLo).setWidth 8).setWidth 7 = a - Config.addrLo := by
    rw [BitVec.setWidth_setWidth_of_le _ (by decide), BitVec.setWidth_eq]
  rw [Decode.addrOperand, Decode.addrOperandByte, narrowed, BitVec.sub_add_cancel]

theorem msb_addrOperandByte (a : Addr) : (Decode.addrOperandByte a).msb = false := by
  rw [Decode.addrOperandByte, BitVec.msb_setWidth]
  exact BitVec.getLsbD_of_ge _ _ (by decide)

/-- An encoded address is read back, whatever instruction it is an operand of. -/
theorem withAddr_addrOperandByte (a : Addr) (f : Addr → Instr) :
    Decode.withAddr (Decode.addrOperandByte a) f = .ok (f a) := by
  rw [Decode.withAddr, msb_addrOperandByte, addrOperand_addrOperandByte]
  rfl

theorem operandsAddr_encoded (f : Addr → Instr) (a : Addr) :
    Decode.operandsAddr f [Decode.addrOperandByte a] = .ok (f a) :=
  withAddr_addrOperandByte a f

theorem operandsAddrCmd_encoded (f : Addr → Byte → Instr) (a : Addr) (c : Byte) :
    Decode.operandsAddrCmd f [Decode.addrOperandByte a, c] = .ok (f a c) :=
  withAddr_addrOperandByte a fun a => f a c

theorem operandsWord_le16 (f : Word → Instr) (w : Word) : Decode.operandsWord f (le16 w) = .ok (f w) :=
  congrArg (fun v => Decoded.ok (f v)) (word16_lowByte_highByte w)

theorem operandsAddrCmdWord_encoded (f : Addr → Byte → Word → Instr) (a : Addr) (c : Byte) (w : Word) :
    Decode.operandsAddrCmdWord f (Decode.addrOperandByte a :: c :: le16 w) = .ok (f a c w) := by
  rw [le16, Decode.operandsAddrCmdWord, withAddr_addrOperandByte, word16_lowByte_highByte]

theorem operandsWords_le16 (f : Word → Word → Instr) (w w' : Word) :
    Decode.operandsWords f (le16 w ++ le16 w') = .ok (f w w') :=
  congrArg Decoded.ok (congrArg₂ f (word16_lowByte_highByte w) (word16_lowByte_highByte w'))

/-- The eight bytes of an f64 are joined to the f64 again: each `++` puts the next byte above the bits joined so far. -/
theorem f64OfBytes_extracted (v : F64) :
    Decode.f64OfBytes (v.extractLsb' 0 8) (v.extractLsb' 8 8) (v.extractLsb' 16 8) (v.extractLsb' 24 8)
      (v.extractLsb' 32 8) (v.extractLsb' 40 8) (v.extractLsb' 48 8) (v.extractLsb' 56 8) = v := by
  have join (n : Nat) : v.extractLsb' n 8 ++ v.extractLsb' 0 n = v.extractLsb' 0 (8 + n) :=
    BitVec.extractLsb'_append_extractLsb'_eq_extractLsb' (Nat.zero_add n).symm
  rw [Decode.f64OfBytes, join 8, join 16, join 24, join 32, join 40, join 48, join 56]
  exact BitVec.extractLsb'_eq_self

theorem operandsF64_f64Bytes (f : F64 → Instr) (v : F64) : Decode.operandsF64 f (Decode.f64Bytes v) = .ok (f v) :=
  congrArg (fun v => Decoded.ok (f v)) (f64OfBytes_extracted v)

theorem operandsLimit_encoded (f : Addr → LimitAccess → Instr) (a : Addr) (acc : LimitAccess) :
    Decode.operandsLimit f (Encode.limit a acc) = .ok (f a acc) := by
  cases acc with
  | read => exact withAddr_addrOperandByte a fun a => f a .read
  | write v =>
    have joined := congrArg (fun v => Decoded.ok (f a (.write v))) (f64OfBytes_extracted v)
    exact (withAddr_addrOperandByte a fun a => f a (.write _)).trans joined

/-! ### Reports (R51, R52, R54) -/

theorem addrByteW_isWrite (a : Addr) : (addrByteW a).getLsbD 0 = false := by revert a; decide

theorem addrByteR_isRead (a : Addr) : (addrByteR a).getLsbD 0 = true := by revert a; decide

theorem addrByteW_address (a : Addr) : (addrByteW a).extractLsb' 1 7 = a := by revert a; decide

theorem addrByteR_address (a : Addr) : (addrByteR a).extractLsb' 1 7 = a := by revert a; decide

theorem lengthByte_toNat {n : Nat} (one_byte : n < 256) : (BitVec.ofNat 8 n).toNat = n :=
  by
  rw [BitVec.toNat_ofNat, Nat.mod_eq_of_lt one_byte]

/-- The bytes that LEN counts are the payload, whatever stands behind it. -/
theorem take_padTo_append (pay rest : List Byte) : (padTo pay.length (pay ++ rest)).take pay.length = pay := by
  rw [padTo, List.append_assoc, List.take_left]

/-- A write report is decoded by its payload's length; what stands behind the payload is not looked at (R51). -/
theorem hidw_writeHead_append (a : Addr) {pay : List Byte} (one_byte : pay.length < 256) (rest : List Byte) :
    Decode.hidw (Encode.writeHead a pay ++ rest) = .ok (Decode.writeShape a pay) := by
  have complete : ¬ (pay ++ rest).length < pay.length := by rw [List.length_append]; omega
  have split : Encode.writeHead a pay ++ rest =
      Config.reportId :: Config.opcWrite :: addrByteW a :: BitVec.ofNat 8 pay.length :: (pay ++ rest) := rfl
  simp only [split, Decode.hidw, lengthByte_toNat one_byte, addrByteW_isWrite, addrByteW_address, take_padTo_append,
    decide_eq_false complete]
  rfl

/-- A read report is decoded by its RLEN; what stands behind it is not looked at (R52). -/
theorem hidr_readHead_append (a : Addr) (n : Byte) (rest : List Byte) :
    Decode.hidr (Encode.readHead a n ++ rest) = .ok (Decode.readShape a n) := by
  have split : Encode.readHead a n ++ rest = Config.reportId :: Config.opcRead :: addrByteR a :: n :: rest := rfl
  simp only [split, Decode.hidr, addrByteR_isRead, addrByteR_address]
  rfl

theorem hidw_writeHead (a : Addr) {pay : List Byte} (one_byte : pay.length < 256) :
    Decode.hidw (Encode.writeHead a pay) = .ok (Decode.writeShape a pay) := by
  have whole := hidw_writeHead_append a one_byte []
  rwa [List.append_nil] at whole

theorem hidr_readHead (a : Addr) (n : Byte) : Decode.hidr (Encode.readHead a n) = .ok (Decode.readShape a n) :=
  hidr_readHead_append a n []

/-- A payload whose length has no row of its own is HID.WRITE's (log 18). -/
theorem writeShape_of_not_shaped (a : Addr) {pay : List Byte} (plain : shapedPayload pay.length = false) :
    Decode.writeShape a pay = .hidWrite a pay := by
  match pay with
  | [] => exact absurd plain (by decide)
  | [_] => exact absurd plain (by simp [shapedPayload])
  | [_, _] => rfl
  | [_, _, _] => exact absurd plain (by simp [shapedPayload])
  | _ :: _ :: _ :: _ :: _ => rfl

theorem readShape_of_not_shaped (a : Addr) {n : Byte} (plain : shapedRead n = false) :
    Decode.readShape a n = .hidRead a n := by
  simp only [shapedRead, Bool.or_eq_false_iff, beq_eq_false_iff_ne] at plain
  rw [Decode.readShape, if_neg plain.1, if_neg plain.2]

/-! ### Fields of an OPSEL byte and of a Linear11 word -/

theorem opsel_reservedLow (k : BitVec 3) : Decode.opsel [0b00001#5 ++ k] = .ok (.reservedLow k) := by revert k; decide

theorem opsel_reservedHigh (k : BitVec 3) : Decode.opsel [0b00011#5 ++ k] = .ok (.reservedHigh k) := by revert k; decide

@[simp] theorem l11ExponentField_l11Pack (e : BitVec 5) (y : BitVec 11) : l11ExponentField (l11Pack e y) = e := by
  rw [l11ExponentField, l11Pack, BitVec.extractLsb'_append_eq_left]

@[simp] theorem l11MantissaField_l11Pack (e : BitVec 5) (y : BitVec 11) : l11MantissaField (l11Pack e y) = y := by
  rw [l11MantissaField, l11Pack, BitVec.extractLsb'_append_eq_right]

theorem l11Shape_encoder (y : BitVec 11) : Decode.l11Shape (l11Pack Config.l11encExp y) = .l11encResult y := by
  rw [Decode.l11Shape, l11ExponentField_l11Pack, if_pos rfl, l11MantissaField_l11Pack]

theorem l11Shape_of_ne {w : Word} (other : l11ExponentField w ≠ Config.l11encExp) : Decode.l11Shape w = .l11Word w :=
  if_neg other

/-- Settles O1: the first byte picks the row by evaluation, and the operands are read back by the lemma of their form. -/
theorem decodeInvertsEncode : Obligations.DecodeInvertsEncode := by
  intro i well_formed
  cases i with
  | connect | disconnect | isconn | scan | ascdec | hidResp | voutCommand => rfl
  | sendbyte a c | readword a c | blockread a c => exact operandsAddrCmd_encoded _ a c
  | writeword a c v => exact operandsAddrCmdWord_encoded _ a c v
  | l11dec w | stsdec w | bcdrev w | vmexp w | rawnum w => exact operandsWord_le16 _ w
  | voutModeWord w | l16Word w | statusWordWord w | pmbusRevisionWord w => exact operandsWord_le16 _ w
  | l11enc v => exact operandsF64_f64Bytes _ v
  | l16dec w vm => exact operandsWords_le16 _ w vm
  | reservedLow k => exact opsel_reservedLow k
  | reservedHigh k => exact opsel_reservedHigh k
  | hidWrite a pay =>
    simp only [Instr.wellFormed, payloadLength, Bool.and_eq_true, decide_eq_true_eq, Bool.not_eq_true'] at well_formed
    obtain ⟨one_byte, plain⟩ := well_formed
    exact (hidw_writeHead a one_byte).trans (congrArg Decoded.ok (writeShape_of_not_shaped a plain))
  | hidRead a n =>
    have plain := readShape_of_not_shaped a ((Bool.not_eq_true' _).mp well_formed)
    exact (hidr_readHead a n).trans (congrArg Decoded.ok plain)
  | scanProbe a => exact hidw_writeHead a (by decide : [].length < 256)
  | sendbyteReport a c => exact hidw_writeHead a (pay := [c]) (by simp)
  | writewordReport a c v =>
    have shape := hidw_writeHead a (pay := c :: le16 v) (by simp [le16])
    rw [le16, Decode.writeShape, word16_lowByte_highByte] at shape
    exact shape
  | readwordReadphase a => exact hidr_readHead a 2
  | blockreadReadphase a => exact hidr_readHead a 33
  | l11Word w =>
    have other := l11Shape_of_ne (bne_iff_ne.mp well_formed)
    exact (operandsWord_le16 Decode.l11Shape w).trans (congrArg Decoded.ok other)
  | l11encResult y =>
    exact (operandsWord_le16 Decode.l11Shape _).trans (congrArg Decoded.ok (l11Shape_encoder y))
  | voutOvFaultLimit a acc | ioutOcFaultLimit a acc | otFaultLimit a acc => exact operandsLimit_encoded _ a acc
  | operation a | clearFaults a | voutMode a | statusWord a | readVin a | readVout a | readIout a | readTemperature1 a
  | pmbusRevision a | mfrId a | mfrModel a | mfrRevision a | mfrSerial a => exact operandsAddr_encoded _ a

/-- R181: the catalogue is closed. -/
theorem cmd_rejects_other_codes {c : Byte} {rest : List Byte}
    (other : c ∉ [0x01#8, 0x03#8, 0x20#8, 0x21#8, 0x40#8, 0x46#8, 0x4F#8, 0x79#8, 0x88#8, 0x8B#8, 0x8C#8, 0x8D#8, 0x98#8,
      0x99#8, 0x9A#8, 0x9B#8, 0x9E#8]) : Decode.cmd (c :: rest) = .rejected .code := by
  simp only [List.mem_cons, List.not_mem_nil, or_false, not_or] at other
  simp only [Decode.cmd, cmdOperation, cmdClearFaults, cmdVoutMode, cmdVoutCommand, cmdVoutOvFaultLimit,
    cmdIoutOcFaultLimit, cmdOtFaultLimit, cmdStatusWord, cmdReadVin, cmdReadVout, cmdReadIout, cmdReadTemperature1,
    cmdPmbusRevision, cmdMfrId, cmdMfrModel, cmdMfrRevision, cmdMfrSerial, BitVec.ofNat_eq_ofNat, other, if_false]

/-- Settles O2: the words are evaluated; a code outside the catalogue passes every test of the decoder. -/
theorem specWordsDecode : Obligations.SpecWordsDecode := by
  refine ⟨by decide, by decide, by decide, by decide, by decide, by decide, by decide, by decide, by decide, by decide,
    by decide, by decide, fun c rest other => ?closed⟩
  case closed => exact cmd_rejects_other_codes other

/-- Settles O3: a built report is its row's encoding with FILL behind it. -/
theorem builtReportsDecode : Obligations.BuiltReportsDecode := by
  intro p a
  refine ⟨fun pay pay_le => ?write, fun n n_le => ?read⟩
  case write => exact hidw_writeHead_append a (by omega) _
  case read => exact hidr_readHead_append a n (List.replicate (p.lOut - 4) p.fill)

/-- Settles O36: the eight bytes of each reserved row are decoded as that row, and the row is refused. -/
theorem reservedOpselRefused : Obligations.ReservedOpselRefused := by
  intro s k
  refine ⟨⟨0b00001#5 ++ k, ?low, opsel_reservedLow k, rfl⟩, ⟨0b00011#5 ++ k, ?high, opsel_reservedHigh k, rfl⟩⟩
  case low => revert k; decide
  case high => revert k; decide

end Sys2Proof.Machine
end

section
/-! The Linear11 encoder (40_codec_numeric.md R82 to R84): the rounding of `VAL × 4` is to a nearest integer, and the word made of it
decodes to that integer divided by 4. -/

namespace Sys2Proof.Machine

/-- Settles O6: k is the binary logarithm of the magnitude, and the fields and the value are those of `packF64`. -/
theorem decoderBitPattern : Obligations.DecoderBitPattern := by
  refine ⟨fun A N A_ge A_le N_ge N_le => ?pattern, packF64_zero, fun w => ⟨rfl, l11Mantissa_natAbs_le w⟩, fun w vm => rfl,
    fun w => rfl, by decide⟩
  case pattern =>
    have magnitude_ne : A.natAbs ≠ 0 := by omega
    have A_ne := Int.natAbs_ne_zero.mp magnitude_ne
    have log_le := log2_le_fifteen magnitude_ne A_le
    obtain ⟨sign, exponent, fraction⟩ := packF64_fields A_ne A_le N_ge N_le
    exact ⟨A.natAbs.log2, log_le, Nat.log2_self_le magnitude_ne, Nat.lt_log2_self, sign, exponent, by omega, by omega,
      fraction, f64Value_packF64_of_ne_zero A_ne A_le N_ge N_le⟩

/-! ### Rounding (R83) -/

/-- `|VAL| × 4`, the magnitude that is rounded. -/
def quarters (v : F64) : ℚ := (f64Significand v : ℚ) * (2 : ℚ) ^ (f64Scale v + 2)

theorem four_mul_f64Value (v : F64) : 4 * f64Value v = (if v.msb then -1 else 1) * quarters v := by
  have two_steps : (2 : ℚ) ^ (f64Scale v + 2) = 2 ^ f64Scale v * 4 := by rw [zpow_add₀ two_ne_zero]; norm_num
  rw [f64Value, quarters, two_steps]
  ring

theorem quarters_nonneg (v : F64) : 0 ≤ quarters v := by rw [quarters]; positivity

theorem f64Significand_lt (v : F64) : f64Significand v < 2 ^ 53 := by
  have fraction_lt : f64Fraction v < 2 ^ 52 := (v.extractLsb' 0 52).isLt
  rw [f64Significand]
  split <;> omega

/-- One description for every branch of the rounding: `VAL × 4` has magnitude `q + f`, and `f` decides between `q` and `q + 1`. -/
theorem quarterMagnitude_eq (t : Tie) (draw : Nat) (v : F64) :
    ∃ (q : Nat) (f : ℚ), 0 ≤ f ∧ f < 1 ∧ quarters v = q + f ∧
      quarterMagnitude t draw v =
        if f < 1 / 2 then q else if 1 / 2 < f then q + 1 else if tieUp t draw q then q + 1 else q := by
  have significand_lt : (f64Significand v : ℚ) < 2 ^ 53 := mod_cast f64Significand_lt v
  simp only [quarterMagnitude, quarters]
  generalize f64Scale v + 2 = e
  generalize f64Significand v = significand at *
  split
  case isTrue nonneg =>
    have exact_power : (2 : ℚ) ^ e = 2 ^ e.toNat := by rw [← zpow_natCast, Int.toNat_of_nonneg nonneg]
    exact ⟨significand * 2 ^ e.toNat, 0, le_rfl, one_pos, by rw [exact_power]; push_cast; ring, by norm_num⟩
  case isFalse neg =>
    split
    case isTrue small =>
      have power_le : (2 : ℚ) ^ e ≤ 2 ^ (-55 : Int) := zpow_le_zpow_right₀ one_le_two (by omega)
      have below_half : (significand : ℚ) * 2 ^ e < 1 / 2 :=
        calc (significand : ℚ) * 2 ^ e ≤ 2 ^ 53 * 2 ^ (-55 : Int) := by gcongr
          _ < 1 / 2 := by norm_num
      exact ⟨0, significand * 2 ^ e, by positivity, by linarith, by simp, by rw [if_pos below_half]⟩
    case isFalse =>
      have power : (2 : ℚ) ^ e = ((2 ^ (-e).toNat : Nat) : ℚ)⁻¹ := by
        push_cast
        rw [← zpow_natCast, Int.toNat_of_nonneg (by omega), zpow_neg, inv_inv]
      have denominator_pos : 0 < 2 ^ (-e).toNat := by positivity
      rw [power]
      generalize 2 ^ (-e).toNat = d at *
      have d_pos : (0 : ℚ) < d := mod_cast denominator_pos
      have division : (d * (significand / d : Nat) + (significand % d : Nat) : ℚ) = significand :=
        mod_cast Nat.div_add_mod significand d
      have remainder_lt : ((significand % d : Nat) : ℚ) < d := mod_cast Nat.mod_lt significand denominator_pos
      have below_half : ((significand % d : Nat) : ℚ) / d < 1 / 2 ↔ 2 * (significand % d) < d := by
        rw [div_lt_div_iff₀ d_pos two_pos, one_mul, mul_comm]; norm_cast
      have above_half : 1 / 2 < ((significand % d : Nat) : ℚ) / d ↔ d < 2 * (significand % d) := by
        rw [div_lt_div_iff₀ two_pos d_pos, one_mul, mul_comm]; norm_cast
      refine ⟨significand / d, (significand % d : Nat) / d, by positivity, (div_lt_one d_pos).mpr remainder_lt, ?_, ?_⟩
      · rw [← division]; field_simp
      · simp only [below_half, above_half]

/-- R83: the magnitude is rounded to a nearest integer. -/
theorem abs_quarterMagnitude_sub_le (t : Tie) (draw : Nat) (v : F64) :
    |(quarterMagnitude t draw v : ℚ) - quarters v| ≤ 1 / 2 := by
  obtain ⟨q, f, f_nonneg, f_lt, value, rounded⟩ := quarterMagnitude_eq t draw v
  rw [rounded, value, abs_le]
  split_ifs <;> push_cast <;> constructor <;> linarith

/-- Halfway between `n` and `n + 1` the tie rule decides. -/
theorem quarterMagnitude_of_tie {v : F64} {n : Nat} (halfway : quarters v = n + 1 / 2) (t : Tie) (draw : Nat) :
    quarterMagnitude t draw v = if tieUp t draw n then n + 1 else n := by
  obtain ⟨q, f, f_nonneg, f_lt, value, rounded⟩ := quarterMagnitude_eq t draw v
  have same_floor : q = n := by
    have above : (q : ℚ) < n + 1 := by linarith
    have below : (n : ℚ) < q + 1 := by linarith
    norm_cast at above below
    omega
  have half : f = 1 / 2 := by rw [same_floor] at value; linarith
  rw [rounded, same_floor, half, if_neg (lt_irrefl _), if_neg (lt_irrefl _)]

theorem abs_quarterRound_sub_le (t : Tie) (draw : Nat) (v : F64) :
    |(quarterRound t draw v : ℚ) - 4 * f64Value v| ≤ 1 / 2 := by
  have nearest := abs_quarterMagnitude_sub_le t draw v
  rw [four_mul_f64Value, quarterRound]
  split
  · rw [abs_sub_comm] at nearest
    push_cast
    convert nearest using 2
    ring
  · push_cast
    convert nearest using 2
    ring

/-- Strictly between -256.125 and 255.875 the nearest integer is in range. -/
theorem quarterRound_inRange {v : F64} (above : -(2049 : ℚ) / 8 < f64Value v) (below : f64Value v < 2047 / 8) (t : Tie)
    (draw : Nat) : -1024 ≤ quarterRound t draw v ∧ quarterRound t draw v ≤ 1023 := by
  obtain ⟨lower, upper⟩ := abs_le.mp (abs_quarterRound_sub_le t draw v)
  have gt : (-1025 : ℚ) < quarterRound t draw v := by linarith
  have lt : (quarterRound t draw v : ℚ) < 1024 := by linarith
  norm_cast at gt lt
  omega

/-- A tie, by the sign of VAL: the magnitude lies halfway between `n` and `n + 1`, and up is away from zero. -/
theorem quarterRound_of_tie {v : F64} {q : Int} (halfway : 4 * f64Value v = (q : ℚ) + 1 / 2) :
    ∃ n : Nat,
      (q = n ∧ ∀ t draw, quarterRound t draw v = if tieUp t draw n then q + 1 else q) ∨
      (q = -(n + 1) ∧ ∀ t draw, quarterRound t draw v = if tieUp t draw n then q else q + 1) := by
  have nonneg := quarters_nonneg v
  rw [four_mul_f64Value] at halfway
  cases sign : v.msb
  case false =>
    simp only [sign, Bool.false_eq_true, if_false, one_mul] at halfway
    have q_gt : (-1 : ℚ) < q := by linarith
    obtain ⟨n, rfl⟩ := Int.eq_ofNat_of_zero_le (a := q) (by norm_cast at q_gt)
    refine ⟨n, .inl ⟨rfl, fun t draw => ?_⟩⟩
    rw [quarterRound, sign, quarterMagnitude_of_tie (n := n) (by exact_mod_cast halfway)]
    cases tieUp t draw n <;> rfl
  case true =>
    simp only [sign, if_true, neg_one_mul] at halfway
    have q_lt : (q : ℚ) < 0 := by linarith
    obtain ⟨n, n_eq⟩ := Int.eq_ofNat_of_zero_le (a := -q - 1) (by norm_cast at q_lt; omega)
    obtain rfl : q = -(n + 1) := by omega
    refine ⟨n, .inr ⟨rfl, fun t draw => ?_⟩⟩
    have magnitude : quarters v = n + 1 / 2 := by push_cast at halfway; linarith
    rw [quarterRound, sign, quarterMagnitude_of_tie magnitude]
    cases tieUp t draw n <;> simp

/-- Settles O11: a tie is decided between `q` and `q + 1` by `tieUp` of the lower magnitude. -/
theorem encoderRounding : Obligations.EncoderRounding := by
  refine ⟨fun t d v finite => ⟨abs_quarterRound_sub_le t d v, fun above below => quarterRound_inRange above below t d⟩,
    fun d v q finite halfway => ?ties⟩
  case ties =>
    obtain ⟨n, ⟨rfl, rounded⟩ | ⟨rfl, rounded⟩⟩ := quarterRound_of_tie halfway
    all_goals
      have even := rounded .even d
      have away := rounded .away d
      simp only [tieUp, beq_iff_eq, if_true] at even away
      exact ⟨⟨by rw [even]; split <;> omega, by rw [even]; split <;> omega⟩, by rw [away]; split <;> omega,
        by rw [rounded]; split <;> simp⟩

/-! ### The word (R83) -/

/-- The encoder's word is the Linear11 word with exponent field -2 and the low 11 bits of `m`. -/
theorem quarterWord_eq_l11Pack (m : Int) :
    quarterWord m = l11Pack Config.l11encExp (BitVec.ofNat 11 (m % 2048).toNat) := by
  have field_lt : (m % 2048).toNat < 2 ^ 11 := by omega
  apply BitVec.eq_of_toNat_eq
  rw [quarterWord, l11Pack, BitVec.toNat_or, BitVec.toNat_append, BitVec.toNat_ofNat (w := 11),
    BitVec.toNat_ofNat (x := (m % 2048).toNat), Nat.mod_eq_of_lt field_lt, Nat.mod_eq_of_lt (field_lt.trans (by decide))]
  rfl

theorem quarterWord_exponentField (m : Int) : l11ExponentField (quarterWord m) = Config.l11encExp := by
  rw [quarterWord_eq_l11Pack, l11ExponentField_l11Pack]

theorem quarterWord_mantissaField_toNat (m : Int) : ((l11MantissaField (quarterWord m)).toNat : Int) = m % 2048 := by
  rw [quarterWord_eq_l11Pack, l11MantissaField_l11Pack, BitVec.toNat_ofNat]
  omega

/-- In range, no bit of `m` is lost. -/
theorem l11Mantissa_quarterWord {m : Int} (m_ge : -1024 ≤ m) (m_le : m ≤ 1023) : l11Mantissa (quarterWord m) = m := by
  have field := quarterWord_mantissaField_toNat m
  rw [l11Mantissa, sext, BitVec.msb_eq_decide]
  simp only [decide_eq_true_eq]
  split <;> omega

theorem f64Value_l11dec_quarterWord {m : Int} (m_ge : -1024 ≤ m) (m_le : m ≤ 1023) :
    f64Value (l11dec (quarterWord m)) = (m : ℚ) / 4 := by
  have exponent : l11Exponent (quarterWord m) = -2 := by rw [l11Exponent, quarterWord_exponentField]; rfl
  rw [f64Value_l11dec_of_fields (l11Mantissa_quarterWord m_ge m_le) exponent]
  norm_num
  ring

/-! ### What L11ENC answers (R83) -/

theorem l11enc_of_not_finite {v : F64} (not_finite : f64Finite v = false) (p : Params) (draw : Nat) :
    l11enc p draw v = .notFinite := by
  rw [l11enc, not_finite]
  rfl

theorem l11enc_of_inRange {p : Params} {draw : Nat} {v : F64} (finite : f64Finite v = true)
    (in_range : -1024 ≤ quarterRound p.tie draw v ∧ quarterRound p.tie draw v ≤ 1023) :
    l11enc p draw v = .word (quarterWord (quarterRound p.tie draw v)) := by
  simp only [l11enc, finite, if_pos in_range]
  rfl

theorem l11enc_of_outOfRange {p : Params} {draw : Nat} {v : F64} (finite : f64Finite v = true)
    (outside : ¬ (-1024 ≤ quarterRound p.tie draw v ∧ quarterRound p.tie draw v ≤ 1023)) :
    l11enc p draw v =
      match p.overflow with
      | .refuse => .outOfRange
      | .wrap => .word (quarterWord (quarterRound p.tie draw v))
      | .saturate => .word (if 1023 < quarterRound p.tie draw v then 0xF3FF else 0xF400) := by
  simp only [l11enc, finite, if_neg outside]
  rfl

theorem exec_l11enc_of_word {s : State} {v : F64} {w : Word} (encoded : l11enc s.params s.draws v = .word w) :
    exec (.l11enc v) s = answer (.word w) s := by
  have arm : exec (.l11enc v) s = execL11enc v s := rfl
  rw [arm, execL11enc, encoded]

theorem exec_l11enc_of_notFinite {s : State} {v : F64} (refused : l11enc s.params s.draws v = .notFinite) :
    exec (.l11enc v) s = .refused .notFinite := by
  have arm : exec (.l11enc v) s = execL11enc v s := rfl
  rw [arm, execL11enc, refused]

theorem exec_l11enc_of_outOfRange {s : State} {v : F64} (refused : l11enc s.params s.draws v = .outOfRange) :
    exec (.l11enc v) s = .refused .mantissaOutOfRange := by
  have arm : exec (.l11enc v) s = execL11enc v s := rfl
  rw [arm, execL11enc, refused]

/-- Settles O12: in range the word decodes to `m / 4`, and `m` is within 1/2 of `VAL × 4`. -/
theorem encoderRoundTrip : Obligations.EncoderRoundTrip := by
  intro s v finite m_ge m_le
  have nearest := abs_quarterRound_sub_le s.params.tie s.draws v
  have ran := exec_l11enc_of_word (l11enc_of_inRange finite ⟨m_ge, m_le⟩)
  have decoded := f64Value_l11dec_quarterWord m_ge m_le
  generalize quarterRound s.params.tie s.draws v = m at *
  have m_ge_rat : (-1024 : ℚ) ≤ m := mod_cast m_ge
  have m_le_rat : (m : ℚ) ≤ 1023 := mod_cast m_le
  obtain ⟨lower, upper⟩ := abs_le.mp nearest
  refine ⟨quarterWord m, ran, quarterWord_exponentField m, decoded, ?within, ?low, ?high, ?exactly⟩ <;> rw [decoded]
  case within => rw [abs_le]; constructor <;> linarith
  case low => linarith
  case high => linarith
  case exactly =>
    rintro ⟨k, value⟩
    have gt : (k : ℚ) - 1 < m := by linarith
    have lt : (m : ℚ) < k + 1 := by linarith
    norm_cast at gt lt
    obtain rfl : m = k := by omega
    exact value.symm

/-- Settles O13: out of range the answer is the overflow setting's. -/
theorem encoderOutOfRange : Obligations.EncoderOutOfRange := by
  intro s v
  refine ⟨fun not_finite => exec_l11enc_of_notFinite (l11enc_of_not_finite not_finite _ _), ?_⟩
  rintro m finite rfl outside
  have encoded := l11enc_of_outOfRange (p := s.params) (draw := s.draws) finite (by omega)
  refine ⟨fun setting => ?refuse, fun setting => ?wrap, fun setting => ?saturate⟩ <;> rw [setting] at encoded
  case refuse => exact exec_l11enc_of_outOfRange encoded
  case wrap =>
    exact ⟨_, exec_l11enc_of_word encoded, quarterWord_exponentField _, quarterWord_mantissaField_toNat _⟩
  case saturate => exact exec_l11enc_of_word encoded

end Sys2Proof.Machine
end

section
/-! The codec operations and the word rows (10_state.md R20, 40_codec_numeric.md R88, 30_encoding.md R58 to R63): each is a function
of its operands and the parameters, and of the counter of free values under an open tie alone. -/

namespace Sys2Proof.Machine

/-! ### Purity (R20, R88) -/

/-- A result delivered, or a refusal. -/
def answerOrRefuse (a : Except Refusal Result) (s : State) : Out :=
  match a with
  | .ok r => answer r s
  | .error e => .refused e

/-- `i` answers `f` of the parameters and the counter of free values, whatever else the state holds, and the counter counts under an
open tie of L11ENC alone. -/
structure CodecFunction (i : Instr) (f : Params → Nat → Except Refusal Result) : Prop where
  exec_eq : ∀ s : State, exec i s = answerOrRefuse (f s.params s.draws) s
  draw_irrelevant : ∀ (p : Params) (draw draw' : Nat), p.tie ≠ .open_ ∨ (∀ v, i ≠ .l11enc v) → f p draw = f p draw'

/-- A tie with a rule is not drawn. -/
theorem l11enc_draw_irrelevant {p : Params} (ruled : p.tie ≠ .open_) (draw draw' : Nat) (v : F64) :
    l11enc p draw v = l11enc p draw' v := by
  have same_tie : tieUp p.tie draw = tieUp p.tie draw' := by
    funext q
    cases rule : p.tie with
    | even => rfl
    | away => rfl
    | open_ => exact absurd rule ruled
  simp only [l11enc, quarterRound, quarterMagnitude, same_tie]

/-- What L11ENC answers, as a result or a refusal. -/
def encodedAnswer : Encoded → Except Refusal Result
  | .word w => .ok (.word w)
  | .notFinite => .error .notFinite
  | .outOfRange => .error .mantissaOutOfRange

theorem codecFunction_l11enc (v : F64) : CodecFunction (.l11enc v) fun p draw => encodedAnswer (l11enc p draw v) where
  exec_eq s := by
    cases encoded : l11enc s.params s.draws v with
    | word w => exact exec_l11enc_of_word encoded
    | notFinite => exact exec_l11enc_of_notFinite encoded
    | outOfRange => exact exec_l11enc_of_outOfRange encoded
  draw_irrelevant p draw draw' drawless := by
    have ruled := drawless.resolve_right fun other => other v rfl
    simp only [l11enc_draw_irrelevant ruled draw draw' v]

theorem codecFunction_ascdec (b : List Byte) :
    CodecFunction (.ascdec b) fun _ _ => match ascdec b with
      | some t => .ok (.text t)
      | none => .error .emptyBlock where
  exec_eq s := by cases b <;> rfl
  draw_irrelevant _ _ _ _ := rfl

theorem exists_codecFunction {i : Instr} (codec : plan i = .codec) :
    ∃ f : Params → Nat → Except Refusal Result, CodecFunction i f := by
  have always {i : Instr} (f : Params → Except Refusal Result) (runs : ∀ s, exec i s = answerOrRefuse (f s.params) s) :
      ∃ f : Params → Nat → Except Refusal Result, CodecFunction i f := ⟨fun p _ => f p, runs, fun _ _ _ _ => rfl⟩
  cases i with
  | l11enc v => exact ⟨_, codecFunction_l11enc v⟩
  | ascdec b => exact ⟨_, codecFunction_ascdec b⟩
  | l11dec w => exact always (fun _ => .ok (.value (l11dec w))) fun _ => rfl
  | l16dec w vm => exact always (fun _ => .ok (.value (l16dec w vm))) fun _ => rfl
  | stsdec w => exact always (fun p => .ok (stsdec p w)) fun _ => rfl
  | bcdrev w => exact always (fun _ => .ok (.revision (revHigh w) (revLow w) (revText w))) fun _ => rfl
  | vmexp vm => exact always (fun _ => .ok (.exponent (vmexp vm))) fun _ => rfl
  | rawnum w => exact always (fun _ => .ok (.value (rawnum w))) fun _ => rfl
  | reservedLow k => exact always (fun _ => .error (.reservedOpsel (0b00001#5 ++ k))) fun _ => rfl
  | reservedHigh k => exact always (fun _ => .error (.reservedOpsel (0b00011#5 ++ k))) fun _ => rfl
  | l11Word w => exact always (fun _ => .ok (.l11Fields (l11Exponent w) (l11Mantissa w))) fun _ => rfl
  | l11encResult y =>
    exact always (fun _ => .ok (.l11Fields (l11Exponent (l11Pack Config.l11encExp y))
      (l11Mantissa (l11Pack Config.l11encExp y)))) fun _ => rfl
  | voutModeWord w => exact always (fun _ => .ok (.exponent (vmexp w))) fun _ => rfl
  | l16Word w => exact always (fun _ => .ok (.mantissa w.toNat)) fun _ => rfl
  | statusWordWord w => exact always (fun p => .ok (stsdec p w)) fun _ => rfl
  | pmbusRevisionWord w => exact always (fun _ => .ok (.nibbles (revHigh w) (revLow w))) fun _ => rfl
  | voutCommand => exact always (fun _ => .ok (.code cmdVoutCommand)) fun _ => rfl
  | voutOvFaultLimit a acc | ioutOcFaultLimit a acc | otFaultLimit a acc => cases acc <;> cases codec
  | _ => cases codec

/-- A codec row is another state's too, where the parameters agree and no tie is drawn anew. -/
theorem CodecFunction.same {i : Instr} {f : Params → Nat → Except Refusal Result} (function : CodecFunction i f)
    {s s' : State} (params : s'.params = s.params)
    (drawn : s'.draws = s.draws ∨ s.params.tie ≠ .open_ ∨ ∀ v, i ≠ .l11enc v) :
    f s'.params s'.draws = f s.params s.draws := by
  rw [params]
  rcases drawn with same | drawless
  · rw [same]
  · exact function.draw_irrelevant _ _ _ drawless

/-- A codec row needs no lock, so its agent's turn runs it whole (R20, R40). -/
theorem hostTurn_codec {s : State} {h : Nat} {f : Fmt} {bs : List Byte} {rest : List Pending} {i : Instr}
    (other : s.lock ≠ .held h) (first : takeFirst h s.port = some (.request f bs, rest)) (decoded : decode f bs = .ok i)
    (codec : plan i = .codec) : hostTurn h s = exec i { s with port := rest, issuer := h } := by
  have no_wait : mustWait i s = false := by rw [mustWait, needsLock, codec]; rfl
  rw [hostTurn_request other first decoded, no_wait, issue, codec]
  rfl

/-- Settles O17: the answer is a function of the operands, the parameters and the draw, so it is the same wherever these are. -/
theorem codecIsPure : Obligations.CodecIsPure := by
  refine ⟨fun i s codec => ?pure, fun s h ts f bs rest i turn other first decoded codec => ?atItsTurn⟩
  case pure =>
    obtain ⟨f, function⟩ := exists_codecFunction codec
    simp only [function.exec_eq]
    cases outcome : f s.params s.draws with
    | ok r =>
      refine ⟨fun t ran => ⟨r, (Host.Outcome.next.inj ran).symm, fun s' params drawn => ?_⟩, fun e refused => nomatch refused⟩
      rw [function.same params drawn, outcome]
      rfl
    | error e =>
      refine ⟨fun t ran => (nomatch ran), fun e' refused s' params drawn => ?_⟩
      rw [function.same params drawn, outcome, ← refused]
      rfl
  case atItsTurn =>
    rw [step_host turn]
    exact hostTurn_codec other first decoded codec

/-! ### The word rows (R58 to R63) -/

/-- The two's-complement number of a field is the field modulo its width. -/
theorem sext_emod {n : Nat} (v : BitVec n) : sext v % 2 ^ n = v.toNat := by
  have v_lt : (v.toNat : Int) < 2 ^ n := mod_cast v.isLt
  rw [sext]
  split
  · rw [Int.sub_emod_right]
    exact Int.emod_eq_of_lt (Int.natCast_nonneg _) v_lt
  · exact Int.emod_eq_of_lt (Int.natCast_nonneg _) v_lt

/-- The two fields of a Linear11 word are the whole of it. -/
theorem toNat_eq_l11Fields (w : Word) : w.toNat = (l11ExponentField w).toNat * 2048 + (l11MantissaField w).toNat := by
  have w_lt := w.isLt
  rw [l11ExponentField, l11MantissaField, BitVec.extractLsb'_toNat, BitVec.extractLsb'_toNat, Nat.shiftRight_zero,
    Nat.shiftRight_eq_div_pow]
  omega

theorem vmExponentField_toNat (w : Word) : (vmExponentField w).toNat = w.toNat % 32 := by
  rw [vmExponentField, BitVec.extractLsb'_toNat, Nat.shiftRight_zero]

theorem nibbles_eq_lowByte (w : Word) : (revHigh w).toNat * 16 + (revLow w).toNat = w.toNat % 256 := by
  rw [revHigh_toNat, revLow_toNat]
  omega

/-- Settles O18: each row's result is that of its format's fields, which are sign-extended (R80) or taken as they are. -/
theorem wordFormatFields : Obligations.WordFormatFields := by
  intro s w y
  refine ⟨⟨l11Exponent w, l11Mantissa w, rfl, ?l11⟩, ⟨sext y, ?encoderRow, ?encoder⟩, ⟨vmexp w, rfl, ?mode⟩, rfl,
    ⟨statusList w, statusTexts s.params w, ?statusRow, fun i => mem_statusList, statusTexts_eq s.params w⟩,
    ⟨revHigh w, revLow w, rfl, nibbles_eq_lowByte w⟩, rfl⟩
  case l11 =>
    obtain ⟨N_ge, N_le⟩ := l11Exponent_bounds w
    obtain ⟨Y_ge, Y_le⟩ := l11Mantissa_bounds w
    have exponent : l11Exponent w % 32 = (l11ExponentField w).toNat := sext_emod (l11ExponentField w)
    have mantissa : l11Mantissa w % 2048 = (l11MantissaField w).toNat := sext_emod (l11MantissaField w)
    have whole := toNat_eq_l11Fields w
    exact ⟨N_ge, N_le, Y_ge, Y_le, by omega⟩
  case encoderRow =>
    have row : exec (.l11encResult y) s = answer (.l11Fields (sext (l11ExponentField (l11Pack Config.l11encExp y)))
      (sext (l11MantissaField (l11Pack Config.l11encExp y)))) s := rfl
    rw [row, l11ExponentField_l11Pack, l11MantissaField_l11Pack]
    rfl
  case encoder =>
    exact ⟨(sext_bounds y).1, Int.le_of_lt_add_one (sext_bounds y).2, (sext_emod y).symm⟩
  case mode =>
    have field : vmexp w % 32 = (vmExponentField w).toNat := sext_emod (vmExponentField w)
    have low := vmExponentField_toNat w
    exact ⟨(vmexp_bounds w).1, (vmexp_bounds w).2, by omega⟩
  case statusRow =>
    have flag : decide (w = 0) = noFaultFlag w := by rw [Bool.eq_iff_iff, decide_eq_true_iff, noFaultFlag_iff]
    rw [flag]
    rfl

end Sys2Proof.Machine
end

section
/-! The report rows and the bounds of the framer (42_framer.md R120 to R129), and the laws of the buffers (log 13). -/

namespace Sys2Proof.Machine

/-! ### F-1 to F-5 (R129) -/

theorem addrOk_iff {a : Addr} : addrOk a = true ↔ 0x08 ≤ a.toNat ∧ a.toNat ≤ 0x77 := by
  rw [addrOk, Bool.and_eq_true, decide_eq_true_iff, decide_eq_true_iff]
  rfl

theorem addrOk_eq_false_iff {a : Addr} : addrOk a = false ↔ a.toNat < 0x08 ∨ 0x77 < a.toNat := by
  rw [← Bool.not_eq_true, addrOk_iff]
  omega

/-- PARSERD takes its bytes from behind the two header bytes of an acknowledged report. -/
theorem parseRd_bounds {r d : List Byte} (parsed : parseRd r = some d) :
    d.length ≤ r.length - 2 ∧ parseAck r = true := by
  obtain ⟨long, ack, dlen, -, length, -⟩ := parseRd_eq_some_iff.mp parsed
  exact ⟨length.trans_le (Nat.min_le_right _ _), parseAck_eq_true_iff.mpr ⟨by omega, ack⟩⟩

/-- Settles O21: the header bytes are read off the report, and the bounds are those of a valid address and of the report's length. -/
theorem framerProperties : Obligations.FramerProperties := by
  refine ⟨fun p a pay valid pay_le => ?write, fun p a n valid n_le => ?read, fun p r d r_le parsed => ?data⟩
  case write =>
    obtain ⟨a_ge, a_le⟩ := addrOk_iff.mp valid
    have addrByte : ((frameW p a pay).getD 2 0).toNat = 2 * a.toNat := addrByteW_toNat a
    have lengthByte : ((frameW p a pay).getD 3 0).toNat = pay.length := lengthByte_toNat (by omega)
    have behind : (frameW p a pay).drop 4 = pay ++ List.replicate (p.lOut - (pay.length + 4)) p.fill := rfl
    refine ⟨rfl, rfl, ?_, ?_, ?_, lengthByte, ?_, ?_⟩
    · omega
    · omega
    · omega
    · omega
    · rw [lengthByte, behind, List.take_left]
  case read =>
    obtain ⟨a_ge, a_le⟩ := addrOk_iff.mp valid
    have addrByte : ((frameR p a n).getD 2 0).toNat = 2 * a.toNat + 1 := addrByteR_toNat a
    exact ⟨rfl, by omega, by omega, by omega⟩
  case data =>
    obtain ⟨d_le, ack⟩ := parseRd_bounds parsed
    exact ⟨d_le, by omega, ack⟩

/-! ### The report rows (R51 to R53, R57) -/

/-- With the lock free, the write report goes to OUT and to the agent. -/
theorem buildWrite_of_fits {s : State} (free : s.lock = .free) (a : Addr) {pay : List Byte}
    (fits : pay.length ≤ Config.maxPayload) :
    buildWrite a pay s =
      answer (.frame (some (frameW s.params a pay))) (setOut (frameW s.params a pay) s) := by
  rw [buildWrite, if_neg (not_not.mpr free), if_neg (Nat.not_lt.mpr fits)]
  simp only [outBytes_frameW a pay s fits]

theorem buildRead_of_fits {s : State} (free : s.lock = .free) (a : Addr) {n : Byte}
    (fits : n.toNat ≤ Config.maxPayload) :
    buildRead a n s = answer (.frame (some (frameR s.params a n))) (setOut (frameR s.params a n) s) := by
  rw [buildRead, if_neg (not_not.mpr free), if_neg (Nat.not_lt.mpr fits)]
  simp only [outBytes_frameR a n s]

/-- With the lock free, a payload that fits no report is a local failure (R66d). -/
theorem buildWrite_of_tooLong {s : State} (free : s.lock = .free) (a : Addr) {pay : List Byte}
    (tooLong : Config.maxPayload < pay.length) :
    buildWrite a pay s = answer (.frame none) { s with cause := .payloadTooLarge } := by
  rw [buildWrite, if_neg (not_not.mpr free), if_pos tooLong]

theorem buildRead_of_tooLong {s : State} (free : s.lock = .free) (a : Addr) {n : Byte}
    (tooLong : Config.maxPayload < n.toNat) :
    buildRead a n s = answer (.frame none) { s with cause := .payloadTooLarge } := by
  rw [buildRead, if_neg (not_not.mpr free), if_pos tooLong]

/-- Settles O22: each row is FRAMEW on its own payload. -/
theorem writeReportRows : Obligations.WriteReportRows := by
  intro s a pay i free pay_le row
  have runs : exec i s = buildWrite a pay s := by
    rcases row with rfl | ⟨rfl, rfl⟩ | ⟨c, rfl, rfl⟩ | ⟨c, v, rfl, rfl⟩ <;> rfl
  exact ⟨_, runs.trans (buildWrite_of_fits free a pay_le), outBytes_frameW a pay s pay_le, rfl⟩

/-- Settles O23: each row is FRAMER on its own length. -/
theorem readReportRows : Obligations.ReadReportRows := by
  intro s a n i free n_le row
  have runs : exec i s = buildRead a n s := by
    rcases row with rfl | ⟨rfl, rfl⟩ | ⟨rfl, rfl⟩ <;> rfl
  exact ⟨_, runs.trans (buildRead_of_fits free a n_le), outBytes_frameR a n s, rfl⟩

/-- Settles O24: IN holds the clipped report, and the parses are of what IN holds. -/
theorem inboundReportRow : Obligations.InboundReportRow := by
  intro s r free
  have runs : exec (.hidResp r) s = answer (.parsed (parseAck (r.take s.params.lIn)) (parseRd (r.take s.params.lIn)))
      (setIn (r.take s.params.lIn) s) := by
    have arm : exec (.hidResp r) s = execHidResp r s := rfl
    rw [arm, execHidResp, if_neg (not_not.mpr free)]
    simp only [inBytes_setIn]
  refine ⟨_, runs, inBytes_setIn _ s, ?_⟩
  rw [← List.length_take]
  rfl

theorem shapedPayload_of_overlong {n : Nat} (overlong : 60 < n) : shapedPayload n = false := by
  simp only [shapedPayload, Bool.or_eq_false_iff, beq_eq_false_iff_ne]
  omega

theorem shapedRead_of_overlong {n : Byte} (overlong : 60 < n.toNat) : shapedRead n = false := by
  simp only [shapedRead, Bool.or_eq_false_iff, beq_eq_false_iff_ne]
  constructor <;> rintro rfl <;> exact absurd overlong (by decide)

/-- Settles O25: the length is tested before anything is built, at the head of XWRITE and XREAD and of the rows. -/
theorem overlongPayloadIsLocal : Obligations.OverlongPayloadIsLocal := by
  refine ⟨fun s a pay overlong => ⟨?xwrite, fun free => ?writeRow, fun one_byte => ?writeWord⟩,
    fun s a n overlong => ⟨?xread, fun free => ?readRow, ?readWord⟩⟩
  case xwrite => rw [xwrite, sendWrite_tooLong overlong]
  case writeRow => exact buildWrite_of_tooLong free a overlong
  case writeWord =>
    have plain := writeShape_of_not_shaped a (shapedPayload_of_overlong overlong)
    exact (hidw_writeHead a one_byte).trans (congrArg Decoded.ok plain)
  case xread => rw [xread, sendRead_tooLong overlong]
  case readRow => exact buildRead_of_tooLong free a overlong
  case readWord =>
    have plain := readShape_of_not_shaped a (shapedRead_of_overlong overlong)
    exact (hidr_readHead a n).trans (congrArg Decoded.ok plain)

/-! ### The buffers (log 13) -/

/-- Bytes stored anywhere in a canonical buffer are loaded from there. -/
theorem loadBytes_storeBytes_same {m : Memory} (canonical : m.wf = true) (base : Nat) (bs : List Byte) :
    (m.storeBytes base bs).loadBytes base bs.length = bs := by
  apply List.ext_getElem
  · rw [Memory.loadBytes, List.length_map, List.length_range]
  · intro k k_lt k_lt'
    simp only [Memory.loadBytes, List.getElem_map, List.getElem_range]
    rw [readByte_storeBytes canonical, if_pos ⟨by omega, by omega⟩, Nat.add_sub_cancel_left,
      List.getD_eq_getElem bs 0 k_lt']

/-- The first index listed is the first that does not read as zero, so it and its byte can be told by reading. -/
theorem eq_of_readByte_eq_from {lo : Nat} {m m' : Memory} (canonical : Memory.wfFrom lo m = true)
    (canonical' : Memory.wfFrom lo m' = true) (same : ∀ j, m.readByte j = m'.readByte j) : m = m' := by
  induction m generalizing lo m' with
  | nil =>
    cases m' with
    | nil => rfl
    | cons p rest' =>
      obtain ⟨j, c⟩ := p
      simp only [Memory.wfFrom, Bool.and_eq_true, bne_iff_ne] at canonical'
      have zero := same j
      simp only [Memory.readByte, if_true] at zero
      exact absurd zero.symm canonical'.1.2
  | cons p rest ih =>
    obtain ⟨i, b⟩ := p
    cases m' with
    | nil =>
      simp only [Memory.wfFrom, Bool.and_eq_true, bne_iff_ne] at canonical
      have zero := same i
      simp only [Memory.readByte, if_true] at zero
      exact absurd zero canonical.1.2
    | cons p' rest' =>
      obtain ⟨j, c⟩ := p'
      simp only [Memory.wfFrom, Bool.and_eq_true, bne_iff_ne] at canonical canonical'
      obtain ⟨⟨-, b_ne⟩, rest_wf⟩ := canonical
      obtain ⟨⟨-, c_ne⟩, rest_wf'⟩ := canonical'
      have at_i := same i
      have at_j := same j
      simp only [Memory.readByte, if_true] at at_i at_j
      obtain rfl : i = j := by
        by_contra different
        rw [if_neg (Ne.symm different)] at at_i
        rw [if_neg different] at at_j
        rcases Nat.lt_or_gt_of_ne different with below | below
        · exact b_ne (at_i.trans (readByte_below rest_wf' (by omega)))
        · exact c_ne (at_j.symm.trans (readByte_below rest_wf (by omega)))
      obtain rfl : b = c := by rwa [if_pos rfl] at at_i
      congr 1
      refine ih rest_wf rest_wf' fun k => ?_
      by_cases k_le : k < i + 1
      · rw [readByte_below rest_wf k_le, readByte_below rest_wf' k_le]
      · have at_k := same k
        have other : i ≠ k := by omega
        simpa only [Memory.readByte, if_neg other] using at_k

/-- Settles O59: the laws of one write and of several, and the extensionality of the canonical form. -/
theorem bufferLaws : Obligations.BufferLaws := by
  refine ⟨fun m i b bs canonical => ?laws, fun m m' canonical canonical' same => ?extensional⟩
  case laws =>
    refine ⟨writeByte_wf canonical i b, ?_, fun j other => ?_, storeBytes_wf canonical i bs,
      loadBytes_storeBytes_same canonical i bs, fun j outside => ?_⟩
    · rw [readByte_writeByte canonical, if_pos rfl]
    · rw [readByte_writeByte canonical, if_neg other]
    · rw [readByte_storeBytes canonical, if_neg (by omega)]
  case extensional => exact eq_of_readByte_eq_from canonical canonical' same

/-! ### Reset, the defaults and the operation port -/

/-- Settles O43: each field is evaluated, and with no request the block waits. -/
theorem resetState : Obligations.ResetState :=
  ⟨⟨rfl, rfl, rfl, rfl, rfl, rfl⟩, step_waits_in_idle rfl rfl rfl⟩

/-- Settles O44: the defaults are evaluated; L_OUT and L_IN are held as what they have above 64. -/
theorem defaultsAndCodes : Obligations.DefaultsAndCodes :=
  ⟨⟨rfl, rfl, rfl, rfl, rfl, fun p => ⟨lOut_ge p, Nat.le_add_right 64 p.lInExtra⟩⟩, ⟨rfl, rfl⟩, rfl, rfl, rfl, rfl, rfl, rfl⟩

/-- With the lock free nothing has to wait, so the oldest request is run as decoded. -/
theorem serve_request {s : State} {h : Nat} {f : Fmt} {bs : List Byte} {i : Instr} (free : s.lock = .free)
    (decoded : decode f bs = .ok i) (rest : List Pending) :
    serve ⟨h, .request f bs⟩ rest s = exec i { s with port := rest, issuer := h } := by
  have no_wait : mustWait i s = false := by rw [mustWait, free]; exact Bool.and_false _
  have not_held : s.lock ≠ .held h := by rw [free]; exact fun held => nomatch held
  simp only [serve, if_neg not_held, decoded, no_wait]
  rfl

/-- A table number that is decoded is decoded from the format and bytes it stands for. -/
theorem decode_of_decodeTableWord {nbits w : Nat} {i : Instr} (decoded : decodeTableWord nbits w = some i) :
    decode (tableWord nbits w).1 (tableWord nbits w).2 = .ok i := by
  rw [decodeTableWord] at decoded
  split at decoded
  case h_1 found => rw [found, Option.some_inj.mp decoded]
  case h_2 => cases decoded

/-- Settles O45: the port's oldest request is served, and `withFetchWord` puts one there. -/
theorem stepRunsDecoded : Obligations.StepRunsDecoded := by
  refine ⟨fun s h f bs rest i no_turns idle free port decoded => ?oldest, fun s nbits w i decoded => ?placed⟩
  case oldest => rw [step_takes_request no_turns idle port, serve_request free decoded]
  case placed =>
    exact (step_takes_request rfl rfl rfl).trans (serve_request rfl (decode_of_decodeTableWord decoded) s.port)

/-- Settles O53: at reset no line is taken, no report has been handed over and the buffers are empty, so each field holds of its
reset value or has no case. -/
theorem invariantAtReset : Obligations.InvariantAtReset where
  lock_free_iff_idle := ⟨fun _ => rfl, fun _ => rfl⟩
  line_phase := rfl
  line_op := rfl
  line_call := fun _ at_latch => nomatch at_latch
  settle_timer := rfl
  read_deadline := rfl
  connected := fun uses => nomatch uses
  no_handle := fun opens => nomatch opens
  timeout := fun _ open_ => nomatch open_
  paired := rfl
  reports := fun _ _ handed => nomatch handed
  out_wf := rfl
  inb_wf := rfl
  in_len := Nat.zero_le _
  pay_len := Nat.zero_le _
  rlen_le := Nat.zero_le _
  addr_ok := fun past => nomatch past
  found_sorted := List.Pairwise.nil
  found_ok := fun _ listed => nomatch listed
  scan_while := fun at_while => nomatch at_while
  scan_probe := fun at_probe => at_probe.elim (fun at_probe => nomatch at_probe) fun at_probe => nomatch at_probe
  scan_advance := fun at_advance => nomatch at_advance

end Sys2Proof.Machine
end

section
/-! What every transport operation leaves alone (43_transport_ops.md R140): all eight bodies carry along what no operation writes, so an
operation ends idle, with the port, the turns and the parameters as they were. -/
namespace Sys2Proof.Machine

/-- CONNECT from HidEnumerate on, in terms of LINK's side alone (R141). -/
theorem openFirst_eq (s : State) :
    openFirst s =
      match connectLink s.params s.link with
      | (some d, l) => { s with link := l, handle := some ⟨d, Config.tReadTimeout⟩, ok := true }
      | (none, l) => { s with link := l, ok := false, cause := .notConnected } := by
  unfold openFirst connectLink
  cases found : s.link.nextEnum with
  | error => rfl
  | devices ds =>
    cases ds with
    | nil => rfl
    | cons d ds =>
      have called : (callEnumerate s).link = s.link.enumerate s.params.vid s.params.pid := rfl
      simp only [called]
      cases opened : (s.link.enumerate s.params.vid s.params.pid).nextOpen <;> rfl

theorem openFirst_withUnwritten {s t : State} (same : SameInputs s t) :
    openFirst (withUnwritten t s) = withUnwritten t (openFirst s) := by
  have same_calls : connectLink (withUnwritten t s).params (withUnwritten t s).link = connectLink s.params s.link :=
    congrArg (connectLink · s.link) same.params
  rw [openFirst_eq, openFirst_eq, same_calls]
  obtain ⟨_ | d, l⟩ := connectLink s.params s.link <;> rfl

theorem connect_bodyCarriesUnwritten : BodyCarriesUnwritten .connect := by
  intro s t same
  have same_parameter : (withUnwritten t s).params.reconnect = s.params.reconnect := congrArg Params.reconnect same.params
  have same_handle : (withUnwritten t s).connected = s.connected := rfl
  simp only [Call.op, bodyOf, bodyConnect, same_parameter, same_handle]
  split
  case isFalse => exact openFirst_withUnwritten same
  case isTrue =>
    cases s.params.reconnect with
    | refuse => rfl
    | noopTrue => rfl
    | reopen => exact openFirst_withUnwritten (s := closeHandle s) ⟨same.params, same.addr, same.cmd, same.wdata⟩

theorem disconnect_bodyCarriesUnwritten : BodyCarriesUnwritten .disconnect := by
  intro s t _
  have same_handle : (withUnwritten t s).connected = s.connected := rfl
  simp only [Call.op, bodyOf, bodyDisconnect, same_handle]
  split <;> rfl

theorem isconn_bodyCarriesUnwritten : BodyCarriesUnwritten .isconn := by
  intro s t _
  have same_handle : (withUnwritten t s).connected = s.connected := rfl
  simp only [Call.op, bodyOf, bodyIsconn, same_handle]
  split <;> rfl

theorem blockread_bodyCarriesUnwritten (a : Addr) (c : Byte) : BodyCarriesUnwritten (.blockread a c) := by
  intro s t same
  rcases wrote : xwrite t.addr [t.cmd] s with ⟨acked, s'⟩
  obtain ⟨wrote', same'⟩ := (xwrite_carriesUnwritten t.addr [t.cmd]).run same wrote
  simp only [Call.op, bodyOf, bodyBlockread, withUnwritten_addr, withUnwritten_cmd, ← same.addr, ← same.cmd, wrote, wrote']
  cases acked
  case false => rfl
  case true =>
    have settled : SameInputs (endSettle (startSettle s')) t := ⟨same'.params, same'.addr, same'.cmd, same'.wdata⟩
    rcases read : xread t.addr Config.blockReadLen (endSettle (startSettle s')) with ⟨d, s''⟩
    obtain ⟨read', -⟩ := (xread_carriesUnwritten t.addr Config.blockReadLen).run settled read
    have commutes : endSettle (startSettle (withUnwritten t s')) = withUnwritten t (endSettle (startSettle s')) := rfl
    simp only [withUnwritten_addr, ← same'.addr, commutes, read, read']
    rfl

/-- A turn of SCAN's loop, and what the next turn finds. -/
theorem scanTurn_withUnwritten {s t : State} (same : SameInputs s t) :
    scanTurn (withUnwritten t s) = withUnwritten t (scanTurn s) ∧ SameInputs (scanTurn s) t := by
  rcases probed : xwrite (scanAddr s) [] s with ⟨present, s'⟩
  obtain ⟨probed', same'⟩ := (xwrite_carriesUnwritten (scanAddr s) []).run same probed
  have same_address : scanAddr (withUnwritten t s) = scanAddr s := rfl
  simp only [scanTurn, same_address, probed, probed']
  exact ⟨rfl, same'.params, same'.addr, same'.cmd, same'.wdata⟩

theorem scanLoop_withUnwritten {n : Nat} {s t : State} (same : SameInputs s t) :
    scanLoop n (withUnwritten t s) = withUnwritten t (scanLoop n s) := by
  induction n generalizing s with
  | zero => rfl
  | succ n ih =>
    obtain ⟨turned, same'⟩ := scanTurn_withUnwritten same
    have same_pointer : (withUnwritten t s).scanPtr = s.scanPtr := rfl
    simp only [scanLoop, same_pointer, turned]
    split
    · exact ih same'
    · rfl

theorem scan_bodyCarriesUnwritten : BodyCarriesUnwritten .scan := by
  intro s t same
  have looped := scanLoop_withUnwritten (n := Config.nScan) (s := startScan s) (t := t)
    ⟨same.params, same.addr, same.cmd, same.wdata⟩
  have started : startScan (withUnwritten t s) = withUnwritten t (startScan s) := rfl
  simp only [Call.op, bodyOf, bodyScan, started, looped]
  rfl

theorem bodyCarriesUnwritten (c : Call) : BodyCarriesUnwritten c := by
  cases c with
  | connect => exact connect_bodyCarriesUnwritten
  | disconnect => exact disconnect_bodyCarriesUnwritten
  | isconn => exact isconn_bodyCarriesUnwritten
  | scan => exact scan_bodyCarriesUnwritten
  | sendbyte a c => exact sendbyte_bodyCarriesUnwritten a c
  | readword a c => exact readword_bodyCarriesUnwritten a c
  | writeword a c v => exact writeword_bodyCarriesUnwritten a c v
  | blockread a c => exact blockread_bodyCarriesUnwritten a c

/-- The frame of a whole operation (R140): what is unwritten is as the prologue left it. -/
theorem operate_frame (c : Call) (k : Cont) (s : State) :
    operate c k s = withUnwritten (acquire c k s) (operate c k s) :=
  operate_eq_withUnwritten (bodyCarriesUnwritten c) k k s

/-- An operation on its own ends idle (R41 L-4, R201). -/
theorem performCall_endsIdle (c : Call) (s : State) : EndsIdle s (performCall c .plain s) := by
  rw [performCall_plain, operate_frame]
  exact ⟨rfl, rfl, rfl, rfl, rfl, acquire_params c .plain s, acquire_port c .plain s, acquire_turns c .plain s,
    acquire_issuer c .plain s⟩

end Sys2Proof.Machine
end

section
/-! The exchanges of the operations from LINK's side (42_framer.md R124, R125): the state after XWRITE and XREAD is that of
`exchangeW` and `exchangeR`, but for PHASE and the read deadline, which the end of an operation overwrites. -/

namespace Sys2Proof.Machine

/-! ### The state an exchange leaves -/

/-- `s` after the exchange `x`: LINK, CAUSE and IN are the exchange's. -/
def exchanged (x : Exchange) (s : State) : State :=
  { s with
    link := x.link
    cause := if x.cause = .none then s.cause else x.cause
    inb := x.received.elim s.inb (Memory.storeBytes [] 0)
    inLen := x.received.elim s.inLen List.length }

/-- The data bytes of a successful read, or none (R145, R147). -/
def Exchange.result (x : Exchange) : Option (List Byte) := if x.cause = .none then some x.data else none

/-- After the prologue has cleared CAUSE, it is the exchange's. -/
theorem exchanged_of_cleared {s : State} (cleared : s.cause = .none) (x : Exchange) :
    exchanged x s =
      { s with
        link := x.link, cause := x.cause
        inb := x.received.elim s.inb (Memory.storeBytes [] 0), inLen := x.received.elim s.inLen List.length } := by
  have cause : (if x.cause = .none then s.cause else x.cause) = x.cause := by
    rw [cleared]
    split
    case isTrue none => exact none.symm
    case isFalse => rfl
  rw [exchanged, cause]

section
variable {x : Exchange} {s t : State} (inb : t.inb = x.received.elim s.inb (Memory.storeBytes [] 0))
  (inLen : t.inLen = x.received.elim s.inLen List.length)
include inb inLen

/-- IN as an exchange leaves it holds the report received last. -/
theorem inBytes_of_received {r : List Byte} (got : x.received = some r) : t.inBytes = r := by
  rw [State.inBytes, inb, inLen, got]
  exact loadBytes_storeBytes r

/-- With no report IN is as it was. -/
theorem in_of_not_received (nothing : x.received = none) :
    t.inLen = s.inLen ∧ ∀ j, t.inb.readByte j = s.inb.readByte j := by
  rw [inb, inLen, nothing]
  exact ⟨rfl, fun _ => rfl⟩

end

/-- OUT as FRAMEW leaves it. -/
theorem outBytes_of_frameW {t : State} {p : Params} {a : Addr} {pay : List Byte} (params : t.params = p)
    (out : t.out = Memory.storeBytes [] 0 (frameW p a pay)) (fits : pay.length ≤ Config.maxPayload) :
    t.outBytes = frameW p a pay := by
  rw [State.outBytes, out, params, ← frameW_length p a pay fits]
  exact loadBytes_storeBytes _

/-- OUT as FRAMER leaves it. -/
theorem outBytes_of_frameR {t : State} {p : Params} {a : Addr} {n : Byte} (params : t.params = p)
    (out : t.out = Memory.storeBytes [] 0 (frameR p a n)) : t.outBytes = frameR p a n := by
  rw [State.outBytes, out, params, ← frameR_length p a n]
  exact loadBytes_storeBytes _

/-- `t` is `s` but for PHASE and the timers. -/
def SameButTimers (s t : State) : Prop := ∃ p e d, t = { s with phase := p, settleTimer := e, readDeadline := d }

theorem parseAck_eq_head? (r : List Byte) : parseAck r = decide (r.head? = some Config.ackOk) := by
  rw [Bool.eq_iff_iff, decide_eq_true_iff, parseAck_eq_true_iff, List.head?_eq_getElem?]
  refine ⟨fun ⟨_, ack⟩ => ack, fun ack => ⟨?_, ack⟩⟩
  obtain ⟨nonempty, -⟩ := List.getElem?_eq_some_iff.mp ack
  exact nonempty

@[simp] theorem handedWrite_link (a : Addr) (pay : List Byte) (s : State) :
    (handedWrite a pay s).link = s.link.hidWrite (frameW s.params a pay) := rfl
@[simp] theorem handedWrite_params (a : Addr) (pay : List Byte) (s : State) : (handedWrite a pay s).params = s.params := rfl
@[simp] theorem handedRead_link (a : Addr) (n : Nat) (s : State) :
    (handedRead a n s).link = s.link.hidWrite (frameR s.params a (BitVec.ofNat 8 n)) := rfl
@[simp] theorem handedRead_params (a : Addr) (n : Nat) (s : State) : (handedRead a n s).params = s.params := rfl

section
variable {p : Params} {a : Addr} {l : Link}

theorem exchangeW_refused {pay : List Byte} (handed : l.nextWrite = .error) :
    exchangeW p a pay l = ⟨.linkError, none, [], l.hidWrite (frameW p a pay)⟩ := by
  simp only [exchangeW, handed]

theorem exchangeW_taken {pay : List Byte} (handed : l.nextWrite = .ok) :
    exchangeW p a pay l =
      match (l.hidWrite (frameW p a pay)).nextRead p.lIn with
      | .timeout => ⟨.timeout, none, [], (l.hidWrite (frameW p a pay)).hidRead p.lIn⟩
      | .error => ⟨.linkError, none, [], (l.hidWrite (frameW p a pay)).hidRead p.lIn⟩
      | .report r =>
        ⟨if r.head? = some Config.ackOk then .none else .shortOrMalformedResponse, some r, [],
          (l.hidWrite (frameW p a pay)).hidRead p.lIn⟩ := by
  cases got : (l.hidWrite (frameW p a pay)).nextRead p.lIn <;> simp only [exchangeW, handed, got]

theorem exchangeR_refused {n : Nat} (handed : l.nextWrite = .error) :
    exchangeR p a n l = ⟨.linkError, none, [], l.hidWrite (frameR p a (BitVec.ofNat 8 n))⟩ := by
  simp only [exchangeR, handed]

theorem exchangeR_taken {n : Nat} (handed : l.nextWrite = .ok) :
    exchangeR p a n l =
      match (l.hidWrite (frameR p a (BitVec.ofNat 8 n))).nextRead p.lIn with
      | .timeout => ⟨.timeout, none, [], (l.hidWrite (frameR p a (BitVec.ofNat 8 n))).hidRead p.lIn⟩
      | .error => ⟨.linkError, none, [], (l.hidWrite (frameR p a (BitVec.ofNat 8 n))).hidRead p.lIn⟩
      | .report r =>
        match parseRd r with
        | some d => ⟨.none, some r, d, (l.hidWrite (frameR p a (BitVec.ofNat 8 n))).hidRead p.lIn⟩
        | none => ⟨.shortOrMalformedResponse, some r, [], (l.hidWrite (frameR p a (BitVec.ofNat 8 n))).hidRead p.lIn⟩ := by
  cases got : (l.hidWrite (frameR p a (BitVec.ofNat 8 n))).nextRead p.lIn with
  | timeout => simp only [exchangeR, handed, got]
  | error => simp only [exchangeR, handed, got]
  | report r => cases parsed : parseRd r <;> simp only [exchangeR, handed, got, parsed]

end

/-- XWRITE is a write exchange (R124). -/
theorem xwrite_eq (a : Addr) {pay : List Byte} (fits : pay.length ≤ Config.maxPayload) (s : State) :
    ∃ s' : State, xwrite a pay s = (decide ((exchangeW s.params a pay s.link).cause = .none), s') ∧
      SameButTimers
        (exchanged (exchangeW s.params a pay s.link) (setOut (frameW s.params a pay) { s with pay := pay })) s' := by
  cases handed : s.link.nextWrite with
  | error =>
    rw [exchangeW_refused handed]
    exact ⟨_, xwrite_refused fits handed, _, _, _, rfl⟩
  | ok =>
    cases got : (s.link.hidWrite (frameW s.params a pay)).nextRead s.params.lIn
    all_goals
      rw [exchangeW_taken handed, xwrite_taken fits handed, recvAck_eq]
      simp only [handedWrite_link, handedWrite_params, got]
    case timeout => exact ⟨_, rfl, _, _, _, rfl⟩
    case error => exact ⟨_, rfl, _, _, _, rfl⟩
    case report r =>
      simp only [parseAck_eq_head?, decide_eq_true_eq]
      by_cases ack : r.head? = some Config.ackOk
      · simp only [if_pos ack]
        exact ⟨_, rfl, _, _, _, rfl⟩
      · simp only [if_neg ack]
        exact ⟨_, rfl, _, _, _, rfl⟩

/-- XREAD is a read exchange (R125). -/
theorem xread_eq (a : Addr) {n : Nat} (fits : n ≤ Config.maxPayload) (s : State) :
    ∃ s' : State, xread a n s = ((exchangeR s.params a n s.link).result, s') ∧
      SameButTimers
        (exchanged (exchangeR s.params a n s.link)
          (setOut (frameR s.params a (BitVec.ofNat 8 n)) { s with rlen := BitVec.ofNat 8 n })) s' := by
  cases handed : s.link.nextWrite with
  | error =>
    rw [exchangeR_refused handed]
    exact ⟨_, xread_refused fits handed, _, _, _, rfl⟩
  | ok =>
    cases got : (s.link.hidWrite (frameR s.params a (BitVec.ofNat 8 n))).nextRead s.params.lIn
    all_goals
      rw [exchangeR_taken handed, xread_taken fits handed, recvData_eq]
      simp only [handedRead_link, handedRead_params, got]
    case timeout => exact ⟨_, rfl, _, _, _, rfl⟩
    case error => exact ⟨_, rfl, _, _, _, rfl⟩
    case report r => cases parseRd r <;> exact ⟨_, rfl, _, _, _, rfl⟩

/-! ### The two exchanges of a read (R145, R147) -/

theorem exchangeWR_of_acked {p : Params} {a : Addr} {c : Byte} {l : Link} (acked : (exchangeW p a [c] l).cause = .none)
    (n : Nat) :
    exchangeWR p a c n l =
      { exchangeR p a n (exchangeW p a [c] l).link with
        received := (exchangeR p a n (exchangeW p a [c] l).link).received.or (exchangeW p a [c] l).received } := by
  simp only [exchangeWR, acked]

theorem exchangeWR_of_not_acked {p : Params} {a : Addr} {c : Byte} {l : Link}
    (not_acked : (exchangeW p a [c] l).cause ≠ .none) (n : Nat) : exchangeWR p a c n l = exchangeW p a [c] l := by
  simp only [exchangeWR]
  split
  case h_1 acked => exact absurd acked not_acked
  all_goals rfl

/-- A second exchange after a successful first leaves what the two together leave. -/
theorem exchanged_twice {w : Exchange} (succeeded : w.cause = .none) (x : Exchange) (s : State) :
    exchanged x (exchanged w s) = exchanged { x with received := x.received.or w.received } s := by
  simp only [exchanged, succeeded, if_true]
  cases x.received <;> rfl

/-- The operand latches and OUT when READWORD or BLOCKREAD of `n` bytes has sent its last report: the read report where the write
phase was acknowledged, else the command's. -/
def readSent (n : Nat) (s : State) : State :=
  { s with
    pay := [s.cmd]
    rlen := if (exchangeW s.params s.addr [s.cmd] s.link).cause = .none then BitVec.ofNat 8 n else s.rlen
    out := Memory.storeBytes [] 0
      (if (exchangeW s.params s.addr [s.cmd] s.link).cause = .none then frameR s.params s.addr (BitVec.ofNat 8 n)
        else frameW s.params s.addr [s.cmd]) }

/-- Without the ack the operation ends after its first exchange. -/
theorem xwrite_of_not_acked {s : State} (not_acked : (exchangeW s.params s.addr [s.cmd] s.link).cause ≠ .none) (n : Nat) :
    (exchangeWR s.params s.addr s.cmd n s.link).result = none ∧
    ∃ s' : State, xwrite s.addr [s.cmd] s = (false, s') ∧
      SameButTimers (exchanged (exchangeWR s.params s.addr s.cmd n s.link) (readSent n s)) s' := by
  obtain ⟨s', wrote, same⟩ := xwrite_eq s.addr (pay := [s.cmd]) (by simp [Config.maxPayload]) s
  rw [decide_eq_false not_acked] at wrote
  rw [exchangeWR_of_not_acked not_acked, readSent, if_neg not_acked, if_neg not_acked]
  exact ⟨if_neg not_acked, s', wrote, same⟩

/-- With it the read exchange follows, after the settle time. -/
theorem xread_of_acked {s : State} (acked : (exchangeW s.params s.addr [s.cmd] s.link).cause = .none) {n : Nat}
    (fits : n ≤ Config.maxPayload) :
    ∃ s' s'' : State, xwrite s.addr [s.cmd] s = (true, s') ∧
      xread s'.addr n (endSettle (startSettle s')) = ((exchangeWR s.params s.addr s.cmd n s.link).result, s'') ∧
      SameButTimers (exchanged (exchangeWR s.params s.addr s.cmd n s.link) (readSent n s)) s'' := by
  obtain ⟨s', wrote, p, e, d, rfl⟩ := xwrite_eq s.addr (pay := [s.cmd]) (by simp [Config.maxPayload]) s
  rw [decide_eq_true acked] at wrote
  obtain ⟨s'', read, p', e', d', rfl⟩ := xread_eq s.addr fits (endSettle (startSettle
    { exchanged (exchangeW s.params s.addr [s.cmd] s.link) (setOut (frameW s.params s.addr [s.cmd]) { s with pay := [s.cmd] })
      with phase := p, settleTimer := e, readDeadline := d }))
  rw [exchangeWR_of_acked acked, readSent, if_pos acked, if_pos acked, ← exchanged_twice acked]
  exact ⟨_, _, wrote, read, p', _, d', rfl⟩

end Sys2Proof.Machine
end

section
/-! The transport operations as wholes (43_transport_ops.md R140 to R147): each ends in the state its exchanges leave, with its result
in the latch, and what it delivers is read from there. -/

namespace Sys2Proof.Machine

/-! ### From Acquire to Release (R140) -/

/-- An operation that passes the connected test runs its body. -/
theorem operate_runs {c : Call} {s : State} (passes : needsHandle c.op = false ∨ s.connected = true) (k : Cont) :
    operate c k s = release (finish (bodyOf c.op (acquire c k s))) := by
  rw [operate, runBody_runs (by rwa [acquire_op, acquire_connected]), acquire_op]

/-- One that does not ends with its negative result. -/
theorem operate_notConnected {c : Call} {s : State} (needs : needsHandle c.op = true) (no_handle : s.connected = false)
    (k : Cont) : operate c k s = release (raise .notConnected (acquire c k s)) := by
  rw [operate, runBody_notConnected (by rwa [acquire_op]) (by rwa [acquire_connected])]

theorem handle_of_not_connected {s : State} (no_handle : s.connected = false) : s.handle = none :=
  Option.isNone_iff_eq_none.mp (by rwa [State.connected, Option.isSome_eq_false_iff] at no_handle)

/-! ### The bodies in terms of their exchanges (R144 to R147) -/

theorem bodySendbyte_eq (s : State) :
    ∃ s' : State, bodySendbyte s = { s' with ok := decide ((exchangeW s.params s.addr [s.cmd] s.link).cause = .none) } ∧
      SameButTimers (exchanged (exchangeW s.params s.addr [s.cmd] s.link)
        (setOut (frameW s.params s.addr [s.cmd]) { s with pay := [s.cmd] })) s' := by
  obtain ⟨s', wrote, same⟩ := xwrite_eq s.addr (pay := [s.cmd]) (by simp [Config.maxPayload]) s
  exact ⟨s', by rw [bodySendbyte, wrote], same⟩

theorem bodyWriteword_eq (s : State) :
    ∃ s' : State, bodyWriteword s =
        { s' with ok := decide ((exchangeW s.params s.addr (s.cmd :: le16 s.wdata) s.link).cause = .none) } ∧
      SameButTimers (exchanged (exchangeW s.params s.addr (s.cmd :: le16 s.wdata) s.link)
        (setOut (frameW s.params s.addr (s.cmd :: le16 s.wdata)) { s with pay := s.cmd :: le16 s.wdata })) s' := by
  obtain ⟨s', wrote, same⟩ := xwrite_eq s.addr (pay := s.cmd :: le16 s.wdata) (by simp [le16, Config.maxPayload]) s
  exact ⟨s', by rw [bodyWriteword, wrote], same⟩

/-- RAW of a data sequence (R145): its first two bytes. -/
def wordOf : Option (List Byte) → Option Word
  | some (lo :: hi :: _) => some (word16 lo hi)
  | some [_] => none
  | some [] => none
  | none => none

/-- A short read (R145): data with fewer than two bytes. -/
def shortRead : Option (List Byte) → Bool
  | some (_ :: _ :: _) => false
  | some [_] => true
  | some [] => true
  | none => false

theorem takeWord_eq (d : Option (List Byte)) (s : State) :
    takeWord d s =
      { s with raw := wordOf d, cause := if shortRead d then .shortOrMalformedResponse else s.cause } := by
  match d with
  | none => rfl
  | some [] => rfl
  | some [_] => rfl
  | some (_ :: _ :: _) => rfl

/-- The state READWORD or BLOCKREAD of `n` bytes is in, but for PHASE and the timers, when its result is to be latched. -/
def readEnd (n : Nat) (s : State) : State := exchanged (exchangeWR s.params s.addr s.cmd n s.link) (readSent n s)

/-- The data bytes it has read, if any. -/
def readData (n : Nat) (s : State) : Option (List Byte) := (exchangeWR s.params s.addr s.cmd n s.link).result

theorem readEnd_of_cleared {s : State} (cleared : s.cause = .none) (n : Nat) :
    readEnd n s =
      { readSent n s with
        link := (exchangeWR s.params s.addr s.cmd n s.link).link, cause := (exchangeWR s.params s.addr s.cmd n s.link).cause
        inb := (exchangeWR s.params s.addr s.cmd n s.link).received.elim s.inb (Memory.storeBytes [] 0)
        inLen := (exchangeWR s.params s.addr s.cmd n s.link).received.elim s.inLen List.length } :=
  exchanged_of_cleared (s := readSent n s) cleared _

theorem bodyReadword_eq (s : State) :
    ∃ s' : State, bodyReadword s = takeWord (readData Config.wordReadLen s) s' ∧
      SameButTimers (readEnd Config.wordReadLen s) s' := by
  by_cases acked : (exchangeW s.params s.addr [s.cmd] s.link).cause = .none
  · obtain ⟨s', s'', wrote, read, same⟩ := xread_of_acked acked (n := Config.wordReadLen) (by decide)
    exact ⟨s'', by simp only [bodyReadword, wrote, read, readData], same⟩
  · obtain ⟨nothing, s', wrote, same⟩ := xwrite_of_not_acked acked Config.wordReadLen
    exact ⟨s', by simp only [bodyReadword, wrote, readData, nothing, takeWord], same⟩

theorem bodyBlockread_eq (s : State) :
    ∃ s' : State, bodyBlockread s = { s' with bytes := readData Config.blockReadLen s } ∧
      SameButTimers (readEnd Config.blockReadLen s) s' := by
  by_cases acked : (exchangeW s.params s.addr [s.cmd] s.link).cause = .none
  · obtain ⟨s', s'', wrote, read, same⟩ := xread_of_acked acked (n := Config.blockReadLen) (by decide)
    exact ⟨s'', by simp only [bodyBlockread, wrote, read, readData], same⟩
  · obtain ⟨nothing, s', wrote, same⟩ := xwrite_of_not_acked acked Config.blockReadLen
    exact ⟨s', by simp only [bodyBlockread, wrote, readData, nothing], same⟩

/-! ### The end of an operation hides PHASE and the timers -/

section
variable {s t : State} (same : SameButTimers s t)
include same

theorem SameButTimers.withOk (ok : Bool) : SameButTimers { s with ok := ok } { t with ok := ok } := by
  obtain ⟨p, e, d, rfl⟩ := same
  exact ⟨p, e, d, rfl⟩

theorem SameButTimers.withBytes (b : Option (List Byte)) : SameButTimers { s with bytes := b } { t with bytes := b } := by
  obtain ⟨p, e, d, rfl⟩ := same
  exact ⟨p, e, d, rfl⟩

theorem SameButTimers.takeWord (d : Option (List Byte)) :
    SameButTimers (Machine.takeWord d s) (Machine.takeWord d t) := by
  obtain ⟨p, e, d', rfl⟩ := same
  rw [takeWord_eq, takeWord_eq]
  exact ⟨p, e, d', rfl⟩

theorem release_finish_eq : release (finish t) = release (finish s) := by
  obtain ⟨p, e, d, rfl⟩ := same
  rfl

end

/-! ### The operations with a handle -/

section
variable {s : State} (connected : s.connected = true) (a : Addr) (c : Byte) (k : Cont)
include connected

theorem operate_sendbyte :
    operate (.sendbyte a c) k s =
      { s with
        op := .sendbyte, addr := a, cmd := c, pay := [c], out := Memory.storeBytes [] 0 (frameW s.params a [c])
        ok := decide ((exchangeW s.params a [c] s.link).cause = .none)
        cause := (exchangeW s.params a [c] s.link).cause, link := (exchangeW s.params a [c] s.link).link
        inb := (exchangeW s.params a [c] s.link).received.elim s.inb (Memory.storeBytes [] 0)
        inLen := (exchangeW s.params a [c] s.link).received.elim s.inLen List.length
        lock := .free, phase := .idle, line := .idle, settleTimer := none, readDeadline := none, cont := k } := by
  obtain ⟨s', body, same⟩ := bodySendbyte_eq (acquire (.sendbyte a c) k s)
  rw [exchanged_of_cleared (by rfl)] at same
  rw [operate_runs (.inr connected) k, Call.op, bodyOf, body]
  exact release_finish_eq (same.withOk _)

theorem operate_writeword (v : Word) :
    operate (.writeword a c v) k s =
      { s with
        op := .writeword, addr := a, cmd := c, wdata := v, pay := c :: le16 v
        out := Memory.storeBytes [] 0 (frameW s.params a (c :: le16 v))
        ok := decide ((exchangeW s.params a (c :: le16 v) s.link).cause = .none)
        cause := (exchangeW s.params a (c :: le16 v) s.link).cause
        link := (exchangeW s.params a (c :: le16 v) s.link).link
        inb := (exchangeW s.params a (c :: le16 v) s.link).received.elim s.inb (Memory.storeBytes [] 0)
        inLen := (exchangeW s.params a (c :: le16 v) s.link).received.elim s.inLen List.length
        lock := .free, phase := .idle, line := .idle, settleTimer := none, readDeadline := none, cont := k } := by
  obtain ⟨s', body, same⟩ := bodyWriteword_eq (acquire (.writeword a c v) k s)
  rw [exchanged_of_cleared (by rfl)] at same
  rw [operate_runs (.inr connected) k, Call.op, bodyOf, body]
  exact release_finish_eq (same.withOk _)

theorem operate_readword :
    operate (.readword a c) k s =
      { s with
        op := .readword, addr := a, cmd := c, pay := [c]
        rlen := if (exchangeW s.params a [c] s.link).cause = .none then 2 else s.rlen
        out := Memory.storeBytes [] 0
          (if (exchangeW s.params a [c] s.link).cause = .none then frameR s.params a 2 else frameW s.params a [c])
        raw := wordOf (exchangeWR s.params a c 2 s.link).result
        cause := if shortRead (exchangeWR s.params a c 2 s.link).result then .shortOrMalformedResponse
          else (exchangeWR s.params a c 2 s.link).cause
        link := (exchangeWR s.params a c 2 s.link).link
        inb := (exchangeWR s.params a c 2 s.link).received.elim s.inb (Memory.storeBytes [] 0)
        inLen := (exchangeWR s.params a c 2 s.link).received.elim s.inLen List.length
        lock := .free, phase := .idle, line := .idle, settleTimer := none, readDeadline := none, cont := k } := by
  obtain ⟨s', body, same⟩ := bodyReadword_eq (acquire (.readword a c) k s)
  rw [operate_runs (.inr connected) k, Call.op, bodyOf, body, release_finish_eq (same.takeWord _), takeWord_eq,
    readEnd_of_cleared (by rfl)]
  rfl

theorem operate_blockread :
    operate (.blockread a c) k s =
      { s with
        op := .blockread, addr := a, cmd := c, pay := [c]
        rlen := if (exchangeW s.params a [c] s.link).cause = .none then 33 else s.rlen
        out := Memory.storeBytes [] 0
          (if (exchangeW s.params a [c] s.link).cause = .none then frameR s.params a 33 else frameW s.params a [c])
        bytes := (exchangeWR s.params a c 33 s.link).result
        cause := (exchangeWR s.params a c 33 s.link).cause, link := (exchangeWR s.params a c 33 s.link).link
        inb := (exchangeWR s.params a c 33 s.link).received.elim s.inb (Memory.storeBytes [] 0)
        inLen := (exchangeWR s.params a c 33 s.link).received.elim s.inLen List.length
        lock := .free, phase := .idle, line := .idle, settleTimer := none, readDeadline := none, cont := k } := by
  obtain ⟨s', body, same⟩ := bodyBlockread_eq (acquire (.blockread a c) k s)
  rw [operate_runs (.inr connected) k, Call.op, bodyOf, body, release_finish_eq (same.withBytes _),
    readEnd_of_cleared (by rfl)]
  rfl

end

/-! ### An operation issued on its own -/

theorem runCall_plain {c : Call} {s : State} (valid : callOk c = true) (free : s.lock = .free)
    (accepted : refusesReconnect c s = false) :
    runCall c .plain s = .next (deliver s.issuer (latchedResult (operate c .plain s)) (operate c .plain s)) :=
  runCall_runs valid free accepted

theorem deliver_operate_endsIdle (c : Call) (s : State) :
    EndsIdle s (deliver s.issuer (latchedResult (operate c .plain s)) (operate c .plain s)) :=
  performCall_endsIdle c s

/-- Without a handle a device operation has its negative result, and LINK is not called (R140, R191). -/
theorem runCall_notConnected {c : Call} {s : State} (valid : callOk c = true) (free : s.lock = .free)
    (needs : needsHandle c.op = true) (no_handle : s.connected = false) :
    runCall c .plain s =
      .next (deliver s.issuer (latchedResult (release (raise .notConnected (acquire c .plain s))))
        (release (raise .notConnected (acquire c .plain s)))) := by
  have accepted : refusesReconnect c s = false := by simp only [refusesReconnect, no_handle, Bool.and_false, Bool.false_and]
  rw [runCall_plain valid free accepted, operate_notConnected needs no_handle]

/-- Settles O26: the operation is one write exchange of the command. -/
theorem sendbyteOutcome : Obligations.SendbyteOutcome := by
  refine ⟨fun s a c free connected valid => ?connected, fun s a c free no_handle valid => ?notConnected,
    fun a c => ⟨rfl, rfl⟩, by decide⟩
  case connected =>
    have ran := runCall_plain (c := .sendbyte a c) valid free rfl
    have idle := deliver_operate_endsIdle (.sendbyte a c) s
    rw [operate_sendbyte connected] at ran idle
    exact ⟨exchangeW s.params a [c] s.link, _, rfl, ran, idle, rfl, rfl, rfl, rfl, rfl, rfl, rfl, rfl,
      rfl, rfl, outBytes_of_frameW rfl rfl (by simp [Config.maxPayload]), fun r => inBytes_of_received (s := s) rfl rfl,
      in_of_not_received (s := s) rfl rfl, rfl, rfl, rfl, rfl, rfl, rfl, rfl⟩
  case notConnected =>
    exact ⟨_, runCall_notConnected valid free rfl no_handle, rfl, rfl, rfl, handle_of_not_connected no_handle⟩

/-- Settles O27: as SENDBYTE, with the data word behind the command. -/
theorem writewordOutcome : Obligations.WritewordOutcome := by
  refine ⟨fun s a c v free connected valid => ?connected, fun s a c v free no_handle valid => ?notConnected,
    fun a c v => ⟨rfl, rfl⟩, by decide⟩
  case connected =>
    have ran := runCall_plain (c := .writeword a c v) valid free rfl
    have idle := deliver_operate_endsIdle (.writeword a c v) s
    rw [operate_writeword connected] at ran idle
    exact ⟨exchangeW s.params a (c :: le16 v) s.link, _, rfl, ran, idle, rfl, rfl, rfl, rfl, rfl, rfl,
      rfl, rfl, rfl, rfl, rfl, outBytes_of_frameW rfl rfl (by simp [Config.maxPayload]),
      fun r => inBytes_of_received (s := s) rfl rfl, in_of_not_received (s := s) rfl rfl, rfl, rfl, rfl, rfl, rfl, rfl⟩
  case notConnected =>
    exact ⟨_, runCall_notConnected valid free rfl no_handle, rfl, rfl, rfl, handle_of_not_connected no_handle⟩

/-! ### READWORD and BLOCKREAD (R145, R147) -/

theorem Exchange.result_of_failed {x : Exchange} (failed : x.cause ≠ .none) : x.result = none := if_neg failed

theorem Exchange.result_of_succeeded {x : Exchange} (succeeded : x.cause = .none) : x.result = some x.data := if_pos succeeded

/-- The last lines of READWORD (R145), by what the exchanges came to. -/
theorem word_of_result (x : Exchange) :
    (x.cause ≠ .none → wordOf x.result = none ∧
      (if shortRead x.result then .shortOrMalformedResponse else x.cause) = x.cause) ∧
    (x.cause = .none → x.data.length < 2 → wordOf x.result = none ∧
      (if shortRead x.result then .shortOrMalformedResponse else x.cause) = .shortOrMalformedResponse) ∧
    (∀ (d0 d1 : Byte) (rest : List Byte), x.cause = .none → x.data = d0 :: d1 :: rest →
      (if shortRead x.result then .shortOrMalformedResponse else x.cause) = .none ∧
        ∃ w : Word, wordOf x.result = some w ∧ w.toNat = d0.toNat + 256 * d1.toNat) := by
  refine ⟨fun failed => ?failed, fun succeeded short => ?short, fun d0 d1 rest succeeded data => ?word⟩
  case failed =>
    rw [Exchange.result_of_failed failed]
    exact ⟨rfl, rfl⟩
  case short =>
    rw [Exchange.result_of_succeeded succeeded]
    match x.data, short with
    | [], _ => exact ⟨rfl, rfl⟩
    | [_], _ => exact ⟨rfl, rfl⟩
  case word =>
    rw [Exchange.result_of_succeeded succeeded, data]
    exact ⟨succeeded, word16 d0 d1, rfl, word16_toNat d0 d1⟩

section
variable {s t : State} {a : Addr} {c : Byte} {n : Byte} (params : t.params = s.params)
  (out : t.out = Memory.storeBytes [] 0
    (if (exchangeW s.params a [c] s.link).cause = .none then frameR s.params a n else frameW s.params a [c]))
  (rlen : t.rlen = if (exchangeW s.params a [c] s.link).cause = .none then n else s.rlen)
include params out rlen

/-- With the write phase acknowledged the read report was sent last. -/
theorem sent_of_acked (acked : (exchangeW s.params a [c] s.link).cause = .none) :
    t.outBytes = frameR s.params a n ∧ t.rlen = n := by
  rw [if_pos acked] at out rlen
  exact ⟨outBytes_of_frameR params out, rlen⟩

theorem sent_of_not_acked (not_acked : (exchangeW s.params a [c] s.link).cause ≠ .none) :
    t.outBytes = frameW s.params a [c] ∧ t.rlen = s.rlen := by
  rw [if_neg not_acked] at out rlen
  exact ⟨outBytes_of_frameW params out (by simp [Config.maxPayload]), rlen⟩

end

/-- Settles O28: the data bytes of the two exchanges decide between a word, a short read and the exchanges' own failure. -/
theorem readwordOutcome : Obligations.ReadwordOutcome := by
  refine ⟨fun s a c free connected valid => ?connected, fun s a c free no_handle valid => ?notConnected,
    fun a c => ⟨rfl, rfl⟩, by decide⟩
  case connected =>
    have ran := runCall_plain (c := .readword a c) valid free rfl
    have idle := deliver_operate_endsIdle (.readword a c) s
    rw [operate_readword connected] at ran idle
    obtain ⟨failed, short, word⟩ := word_of_result (exchangeWR s.params a c 2 s.link)
    exact ⟨exchangeWR s.params a c 2 s.link, _, rfl, ran, idle, rfl, failed, short,
      word, rfl, rfl, rfl, rfl, rfl, rfl, rfl,
      fun r => inBytes_of_received (s := s) rfl rfl, in_of_not_received (s := s) rfl rfl,
      sent_of_acked (s := s) rfl rfl rfl, sent_of_not_acked (s := s) rfl rfl rfl, rfl, rfl, rfl, rfl, rfl, rfl⟩
  case notConnected =>
    exact ⟨_, runCall_notConnected valid free rfl no_handle, rfl, rfl, rfl, handle_of_not_connected no_handle⟩

/-- Settles O29: as READWORD, with every data byte for a result. -/
theorem blockreadOutcome : Obligations.BlockreadOutcome := by
  refine ⟨fun s a c free connected valid => ?connected, fun s a c free no_handle valid => ?notConnected,
    fun a c => ⟨rfl, rfl⟩, by decide⟩
  case connected =>
    have ran := runCall_plain (c := .blockread a c) valid free rfl
    have idle := deliver_operate_endsIdle (.blockread a c) s
    rw [operate_blockread connected] at ran idle
    exact ⟨exchangeWR s.params a c 33 s.link, _, rfl, ran, idle, rfl, rfl, rfl, rfl, rfl, rfl, rfl, rfl, rfl, rfl,
      fun r => inBytes_of_received (s := s) rfl rfl, in_of_not_received (s := s) rfl rfl,
      sent_of_acked (s := s) rfl rfl rfl, sent_of_not_acked (s := s) rfl rfl rfl, rfl, rfl, rfl, rfl, rfl, rfl⟩
  case notConnected =>
    exact ⟨_, runCall_notConnected valid free rfl no_handle, rfl, rfl, rfl, handle_of_not_connected no_handle⟩

end Sys2Proof.Machine
end

section
/-! CONNECT, DISCONNECT and ISCONN (43_transport_ops.md R141 to R143), and the operations refused or ended before any call on LINK
(20_memory.md R31, R191). -/

namespace Sys2Proof.Machine

/-! ### The operations on the handle -/

/-- CONNECT's calls hand no report to LINK. -/
theorem writeCount_connectLink (p : Params) (l : Link) :
    writeCount (connectLink p l).2.traffic = writeCount l.traffic := by
  unfold connectLink
  cases l.nextEnum with
  | error => rfl
  | devices ds =>
    cases ds with
    | nil => rfl
    | cons d ds => cases opened : (l.enumerate p.vid p.pid).nextOpen <;> simp only [opened] <;> rfl

/-- The state CONNECT leaves, after `opened`, the outcome of its calls. -/
def connectEnd (opened : Option Nat × Link) (k : Cont) (s : State) : State :=
  { s with
    op := .connect, handle := opened.1.map fun d => ⟨d, Config.tReadTimeout⟩, link := opened.2, ok := opened.1.isSome
    cause := if opened.1.isSome then .none else .notConnected
    lock := .free, phase := .idle, line := .idle, settleTimer := none, readDeadline := none, cont := k }

theorem openFirst_end {s : State} (cleared : s.cause = .none) (no_handle : s.handle = none) :
    release (finish (openFirst s)) = { connectEnd (connectLink s.params s.link) s.cont s with op := s.op } := by
  rw [openFirst_eq]
  obtain ⟨_ | d, l⟩ := connectLink s.params s.link
  · simp only [connectEnd, release, finish, no_handle]
    rfl
  · simp only [connectEnd, release, finish, cleared]
    rfl

theorem operate_connect_disconnected {s : State} (no_handle : s.connected = false) (k : Cont) :
    operate .connect k s = connectEnd (connectLink s.params s.link) k s := by
  have body : bodyOf Call.connect.op (acquire .connect k s) = openFirst (acquire .connect k s) := by
    simp only [Call.op, bodyOf, bodyConnect, acquire_connected, no_handle]
    rfl
  rw [operate_runs (.inl rfl) k, body, openFirst_end (s := acquire .connect k s) rfl (handle_of_not_connected no_handle)]
  rfl

theorem operate_connect_reopen {s : State} (connected : s.connected = true) (reopen : s.params.reconnect = .reopen) (k : Cont) :
    operate .connect k s = connectEnd (connectLink s.params s.link.close) k s := by
  have body : bodyOf Call.connect.op (acquire .connect k s) = openFirst (closeHandle (acquire .connect k s)) := by
    simp only [Call.op, bodyOf, bodyConnect, acquire_connected, connected, acquire_params, reopen]
    rfl
  rw [operate_runs (.inl rfl) k, body, openFirst_end (s := closeHandle (acquire .connect k s)) rfl rfl]
  rfl

theorem operate_connect_noop {s : State} (connected : s.connected = true) (noop : s.params.reconnect = .noopTrue) (k : Cont) :
    operate .connect k s =
      { s with
        op := .connect, ok := true, cause := .none, lock := .free, phase := .idle, line := .idle, settleTimer := none
        readDeadline := none, cont := k } := by
  have body : bodyOf Call.connect.op (acquire .connect k s) = { acquire .connect k s with ok := true } := by
    simp only [Call.op, bodyOf, bodyConnect, acquire_connected, connected, acquire_params, noop]
    rfl
  rw [operate_runs (.inl rfl) k, body]
  rfl

theorem operate_disconnect (k : Cont) (s : State) :
    operate .disconnect k s =
      { s with
        op := .disconnect, handle := none, link := if s.connected then s.link.close else s.link, cause := .none
        lock := .free, phase := .idle, line := .idle, settleTimer := none, readDeadline := none, cont := k } := by
  rw [operate_runs (.inl rfl) k]
  simp only [Call.op, bodyOf, bodyDisconnect, acquire_connected]
  cases connected : s.connected
  case true => rfl
  case false =>
    simp only [Bool.false_eq_true, if_false, ← handle_of_not_connected connected]
    rfl

theorem operate_isconn (k : Cont) (s : State) :
    operate .isconn k s =
      { s with
        op := .isconn, ok := s.connected && (s.link.nextReadable && s.link.nextWritable), cause := .none
        link := if s.connected then s.link.sampleReady else s.link
        lock := .free, phase := .idle, line := .idle, settleTimer := none, readDeadline := none, cont := k } := by
  rw [operate_runs (.inl rfl) k]
  simp only [Call.op, bodyOf, bodyIsconn, acquire_connected]
  cases s.connected <;> rfl

theorem refusesReconnect_eq (s : State) :
    refusesReconnect .connect s = (s.connected && s.params.reconnect == .refuse) := rfl

theorem exec_connect {s : State} (free : s.lock = .free) (accepted : refusesReconnect .connect s = false) {t : State}
    (ended : operate .connect .plain s = t) : exec .connect s = .next (deliver s.issuer (latchedResult t) t) ∧
      EndsIdle s (deliver s.issuer (latchedResult t) t) := by
  rw [← ended]
  exact ⟨runCall_plain rfl free accepted, deliver_operate_endsIdle .connect s⟩

/-- Settles O31: without a handle, and after HidClose under `reopen`, the calls are `connectLink`'s; the other two settings make
none. -/
theorem connectOutcome : Obligations.ConnectOutcome := by
  refine ⟨fun s free no_handle => ?disconnected, fun s free connected refuse => ?refuse,
    fun s free connected noop => ?noop, fun s free connected reopen => ?reopen⟩
  case disconnected =>
    obtain ⟨ran, idle⟩ := exec_connect free (by rw [refusesReconnect_eq, no_handle, Bool.false_and])
      (operate_connect_disconnected no_handle .plain)
    exact ⟨_, ran, idle, ⟨rfl, rfl, rfl, rfl, rfl, rfl, rfl, rfl, rfl, rfl, rfl, rfl⟩, rfl, rfl, rfl, rfl,
      writeCount_connectLink s.params s.link, rfl, rfl, rfl, rfl⟩
  case refuse =>
    have row : exec .connect s = runCall .connect .plain s := rfl
    rw [row, runCall, if_neg (by decide), if_neg (not_not.mpr free), refusesReconnect_eq, connected, refuse]
    rfl
  case noop =>
    obtain ⟨ran, idle⟩ := exec_connect free (by rw [refusesReconnect_eq, noop, connected]; rfl)
      (operate_connect_noop connected noop .plain)
    exact ⟨_, ran, idle, ⟨rfl, rfl, rfl, rfl, rfl, rfl, rfl, rfl, rfl, rfl, rfl, rfl⟩, rfl, rfl, rfl, rfl, rfl, rfl, rfl, rfl⟩
  case reopen =>
    obtain ⟨ran, idle⟩ := exec_connect free (by rw [refusesReconnect_eq, reopen, connected]; rfl)
      (operate_connect_reopen connected reopen .plain)
    exact ⟨_, ran, idle, ⟨rfl, rfl, rfl, rfl, rfl, rfl, rfl, rfl, rfl, rfl, rfl, rfl⟩, rfl, rfl, rfl, rfl, rfl, rfl, rfl, rfl⟩

/-- Settles O32: DISCONNECT leaves no handle, so the second one and the READWORD after it find none and call nothing. -/
theorem disconnectIsIdempotent : Obligations.DisconnectIsIdempotent := by
  intro s free
  have ran := runCall_plain (c := .disconnect) rfl free rfl
  have idle := deliver_operate_endsIdle .disconnect s
  rw [operate_disconnect] at ran idle
  refine ⟨_, ran, idle, ⟨rfl, rfl, rfl, rfl, rfl, rfl, rfl, rfl, rfl, rfl, rfl, rfl⟩, rfl, rfl, ?count, rfl, rfl, rfl, rfl, rfl,
    rfl, ?again, ?readword⟩
  case count =>
    simp only [deliver_link]
    split <;> rfl
  case again =>
    have ran' := runCall_plain (c := .disconnect) rfl idle.lock rfl
    rw [operate_disconnect] at ran'
    exact ⟨_, ran', rfl, rfl⟩
  case readword =>
    exact ⟨_, runCall_notConnected (c := .readword 0x40 0x79) (by decide) idle.lock rfl rfl, rfl, rfl, rfl⟩

/-- Settles O33: the two inputs are looked at only with a handle, and at reset there is none. -/
theorem isconnOutcome : Obligations.IsconnOutcome := by
  refine ⟨fun s free => ?_, _, rfl, rfl⟩
  have ran := runCall_plain (c := .isconn) rfl free rfl
  have idle := deliver_operate_endsIdle .isconn s
  rw [operate_isconn] at ran idle
  refine ⟨_, ran, idle, ⟨rfl, rfl, rfl, rfl, rfl, rfl, rfl, rfl, rfl, rfl, rfl, rfl⟩, rfl, rfl, ?traffic, rfl, rfl, rfl, rfl, rfl⟩
  case traffic =>
    simp only [deliver_link]
    split <;> rfl

/-- Settles O34: the prologue latches the operands, and the failure sets the negative result and CAUSE. -/
theorem notConnectedIsLocal : Obligations.NotConnectedIsLocal := by
  intro s a c v free no_handle valid
  have ran {c : Call} (ok : callOk c = true) (needs : needsHandle c.op = true) :=
    runCall_notConnected ok free needs no_handle
  have same_lock : s = { s with lock := .free } := by rw [← free]
  refine ⟨(ran (c := .sendbyte a c) valid rfl).trans ?_, (ran (c := .writeword a c v) valid rfl).trans ?_,
    (ran (c := .readword a c) valid rfl).trans ?_, (ran (c := .blockread a c) valid rfl).trans ?_,
    (ran (c := .scan) rfl rfl).trans ?_⟩ <;> rw [same_lock] <;> rfl

/-! ### What the dispatch calls, by plan -/

theorem exec_of_plan_call {i : Instr} {c : Call} {k : Cont} (planned : plan i = .call c k) (s : State) :
    exec i s = runCall c k s := by
  cases i with
  | voutOvFaultLimit a acc | ioutOcFaultLimit a acc | otFaultLimit a acc => cases acc <;> cases planned; rfl
  | _ => cases planned <;> rfl

theorem exec_of_plan_limitWrite {i : Instr} {a : Addr} {c : Byte} {v : F64} (planned : plan i = .limitWrite a c v)
    (s : State) : exec i s = wrLimit a c v s := by
  cases i with
  | voutOvFaultLimit a acc | ioutOcFaultLimit a acc | otFaultLimit a acc => cases acc <;> cases planned; rfl
  | _ => cases planned

theorem wrLimit_badAddress {a : Addr} (reserved : addrOk a = false) (c : Byte) (v : F64) (s : State) :
    wrLimit a c v s = .refused (.addressOutOfRange a) := by
  simp only [wrLimit, reserved]
  rfl

theorem limitAccess_badAddress {a : Addr} (reserved : addrOk a = false) (c : Byte) (acc : LimitAccess) (s : State) :
    limitAccess a c acc s = .refused (.addressOutOfRange a) := by
  cases acc with
  | read => exact runCall_badAddress (c := .readword a c) reserved
  | write v => exact wrLimit_badAddress reserved c v s

/-- Settles O35: each is a call whose address is refused before the lock is looked at, or the access of a limit register. -/
theorem reservedAddressRefused : Obligations.ReservedAddressRefused := by
  intro s a c v acc outside
  have reserved := addrOk_eq_false_iff.mpr outside
  have call {i : Instr} {c : Call} {k : Cont} (planned : plan i = .call c k) (ok : callOk c = addrOk a)
      (addr : callAddr c = a) : exec i s = .refused (.addressOutOfRange a) := by
    rw [exec_of_plan_call planned, runCall_badAddress (ok.trans reserved), addr]
  simp only [List.forall_mem_cons]
  refine ⟨call rfl rfl rfl, call rfl rfl rfl, call rfl rfl rfl, call rfl rfl rfl, call rfl rfl rfl, call rfl rfl rfl,
    call rfl rfl rfl, limitAccess_badAddress reserved _ acc s, limitAccess_badAddress reserved _ acc s,
    limitAccess_badAddress reserved _ acc s, call rfl rfl rfl, call rfl rfl rfl, call rfl rfl rfl, call rfl rfl rfl,
    call rfl rfl rfl, call rfl rfl rfl, call rfl rfl rfl, call rfl rfl rfl, call rfl rfl rfl, call rfl rfl rfl,
    fun _ none => nomatch none⟩

end Sys2Proof.Machine
end

section
/-! SCAN (43_transport_ops.md R148): its loop probes the addresses from SCAN_PTR on, in order. -/

namespace Sys2Proof.Machine

/-! ### Probing a list of addresses -/

theorem writeCount_exchangeW (p : Params) (a : Addr) (pay : List Byte) (l : Link) :
    writeCount (exchangeW p a pay l).link.traffic = writeCount l.traffic + 1 := by
  cases handed : l.nextWrite with
  | error => rw [exchangeW_refused handed]; rfl
  | ok =>
    rw [exchangeW_taken handed]
    cases (l.hidWrite (frameW p a pay)).nextRead p.lIn <;> rfl

/-- One report for each address. -/
theorem writeCount_probeAll (p : Params) (as : List Addr) (l : Link) :
    writeCount (probeAll p as l).2.traffic = writeCount l.traffic + as.length := by
  induction as generalizing l with
  | nil => rfl
  | cons a as ih => rw [probeAll, ih, writeCount_exchangeW, List.length_cons]; omega

/-- The addresses found are of those probed, in the same order. -/
theorem probeAll_sublist (p : Params) (as : List Addr) (l : Link) : (probeAll p as l).1.Sublist as := by
  induction as generalizing l with
  | nil => exact .slnil
  | cons a as ih =>
    rw [probeAll]
    dsimp only
    split
    · exact (ih _).cons_cons a
    · exact (ih _).cons a

theorem scanAddresses_eq : scanAddresses = (List.range' 8 112).map (BitVec.ofNat 7) := by decide

theorem scanAddresses_length : scanAddresses.length = 112 := by decide

theorem scanAddresses_ascending : scanAddresses.Pairwise (· < ·) := by decide

theorem scanAddresses_valid : ∀ a ∈ scanAddresses, addrOk a = true := by decide

/-! ### The loop -/

/-- `s` after a successful or failed probe of each of `as`. -/
def scanned (as : List Addr) (s : State) : State :=
  { s with
    found := s.found ++ (probeAll s.params as s.link).1, link := (probeAll s.params as s.link).2
    scanPtr := s.scanPtr + BitVec.ofNat 8 as.length, pay := as.getLast?.elim s.pay fun _ => []
    out := as.getLast?.elim s.out fun a => Memory.storeBytes [] 0 (frameW s.params a []) }

/-- `t` is `s` but for what each probe writes anew: PHASE, the timers, CAUSE and IN. -/
def SameButProbes (s t : State) : Prop :=
  ∃ p e d c i n, t = { s with phase := p, settleTimer := e, readDeadline := d, cause := c, inb := i, inLen := n }

theorem scanned_nil (s : State) : scanned [] s = s := by
  simp only [scanned, probeAll, List.append_nil, List.length_nil, BitVec.add_zero,
    List.getLast?_nil, Option.elim_none]

theorem scanned_cons (a : Addr) (as : List Addr) (s : State) :
    scanned as (scanned [a] s) = scanned (a :: as) s := by
  have pointer : s.scanPtr + BitVec.ofNat 8 1 + BitVec.ofNat 8 as.length = s.scanPtr + BitVec.ofNat 8 (as.length + 1) := by
    rw [BitVec.add_assoc, ← BitVec.ofNat_add, Nat.add_comm]
  have found : s.found ++ (if (exchangeW s.params a [] s.link).cause = .none then [a] else []) ++
      (probeAll s.params as (exchangeW s.params a [] s.link).link).1 = s.found ++ (probeAll s.params (a :: as) s.link).1 := by
    rw [probeAll]
    dsimp only
    split <;> simp
  have last : (a :: as).getLast? = some (as.getLast?.getD a) := List.getLast?_cons
  simp only [scanned, probeAll, List.length_cons, List.length_nil, Nat.zero_add, pointer, found, last]
  cases as.getLast? <;> rfl

/-- One turn of the loop is one probe. -/
theorem scanTurn_eq (s : State) : SameButProbes (scanned [scanAddr s] s) (scanTurn s) := by
  obtain ⟨s', probed, p, e, d, rfl⟩ := xwrite_eq (scanAddr s) (pay := []) (by decide) s
  have found : (if decide ((exchangeW s.params (scanAddr s) [] s.link).cause = .none) then s.found ++ [scanAddr s] else s.found) =
      s.found ++ (probeAll s.params [scanAddr s] s.link).1 := by
    simp only [probeAll, decide_eq_true_eq]
    split <;> simp
  rw [scanTurn, probed, scanned, ← found]
  exact ⟨_, _, _, _, _, _, rfl⟩

theorem scanLoop_eq {n : Nat} {s : State} (bound : s.scanPtr.toNat + n ≤ 0x78) :
    SameButProbes (scanned ((List.range' s.scanPtr.toNat n).map (BitVec.ofNat 7)) s) (scanLoop n s) := by
  induction n generalizing s with
  | zero =>
    have none_probed : scanned ((List.range' s.scanPtr.toNat 0).map (BitVec.ofNat 7)) s = s := scanned_nil s
    rw [none_probed]
    exact ⟨_, _, _, _, _, _, rfl⟩
  | succ n ih =>
    have in_range : s.scanPtr.toNat ≤ Config.addrHi.toNat := by change s.scanPtr.toNat ≤ 0x77; omega
    obtain ⟨p, e, d, c, i, m, turned⟩ := scanTurn_eq s
    have pointer : (scanTurn s).scanPtr.toNat = s.scanPtr.toNat + 1 := by
      have advanced : (scanTurn s).scanPtr = s.scanPtr + 1 := by rw [turned]; rfl
      rw [advanced, BitVec.toNat_add]
      exact Nat.mod_eq_of_lt (by change _ + 1 < 256; omega)
    have rest := ih (s := scanTurn s) (by omega)
    have address : BitVec.ofNat 7 s.scanPtr.toNat = scanAddr s := BitVec.ofNat_toNat 7 s.scanPtr
    rw [scanLoop, if_pos in_range, List.range'_succ, List.map_cons, address, ← scanned_cons, ← pointer]
    rw [turned] at rest ⊢
    obtain ⟨p', e', d', c', i', m', looped⟩ := rest
    exact ⟨_, _, _, _, _, _, looped⟩

/-- SCAN as a whole: what it found, and the state it leaves. -/
theorem operate_scan {s : State} (connected : s.connected = true) (k : Cont) :
    ∃ i n, operate .scan k s =
      { s with
        op := .scan, found := (probeAll s.params scanAddresses s.link).1
        link := (probeAll s.params scanAddresses s.link).2, scanPtr := 0x78, pay := []
        out := Memory.storeBytes [] 0 (frameW s.params 0x77 []), cause := .none, inb := i, inLen := n
        lock := .free, phase := .idle, line := .idle, settleTimer := none, readDeadline := none, cont := k } := by
  have last : scanAddresses.getLast? = some 0x77 := by decide
  have pointer : (0x08#8) + BitVec.ofNat 8 scanAddresses.length = 0x78 := by rw [scanAddresses_length]; rfl
  have from_start := scanLoop_eq (n := Config.nScan) (s := startScan (acquire .scan k s)) (Nat.le_refl 0x78)
  have addresses : (List.range' (startScan (acquire .scan k s)).scanPtr.toNat Config.nScan).map (BitVec.ofNat 7) =
    scanAddresses := scanAddresses_eq.symm
  rw [addresses] at from_start
  obtain ⟨p, e, d, c, i, n, looped⟩ := from_start
  have started : (startScan (acquire .scan k s)).scanPtr = 0x08#8 := rfl
  refine ⟨i, n, ?_⟩
  rw [operate_runs (.inr connected) k]
  simp only [Call.op, bodyOf, bodyScan, looped, scanned, last, started, pointer]
  generalize scanAddresses = as
  rfl

/-- Settles O30: the loop runs over `scanAddresses`, and a sublist of these is ascending and valid as they are. -/
theorem scanOutcome : Obligations.ScanOutcome := by
  intro s free connected
  have ran := runCall_plain (c := .scan) (s := s) rfl free rfl
  have idle := deliver_operate_endsIdle .scan s
  obtain ⟨i, n, ended⟩ := operate_scan connected .plain
  rw [ended] at ran idle
  have count := writeCount_probeAll s.params scanAddresses s.link
  have among := probeAll_sublist s.params scanAddresses s.link
  have ascending := scanAddresses_ascending.sublist among
  have valid := fun b listed => scanAddresses_valid b (among.subset listed)
  rw [scanAddresses_length] at count
  generalize scanAddresses = as at *
  exact ⟨_, ran, idle, rfl, rfl, ascending, valid, count, rfl, rfl, rfl, rfl, rfl, rfl, rfl,
    outBytes_of_frameW rfl rfl (by decide), rfl, rfl, rfl, rfl, rfl, rfl, rfl, rfl⟩

end Sys2Proof.Machine
end

section
/-! Counting reports (43_transport_ops.md R152), and the catalogue's sequences of more than a READWORD (44_catalogue_and_composites.md
R172, R173, R176). -/

namespace Sys2Proof.Machine

/-! ### How many reports (R152) -/

theorem writeCount_exchangeR (p : Params) (a : Addr) (n : Nat) (l : Link) :
    writeCount (exchangeR p a n l).link.traffic = writeCount l.traffic + 1 := by
  cases handed : l.nextWrite with
  | error => rw [exchangeR_refused handed]; rfl
  | ok =>
    rw [exchangeR_taken handed]
    cases (l.hidWrite (frameR p a (BitVec.ofNat 8 n))).nextRead p.lIn with
    | timeout => rfl
    | error => rfl
    | report r => cases parsed : parseRd r <;> simp only [parsed] <;> rfl

/-- The read report is sent only after a successful write phase. -/
theorem writeCount_exchangeWR (p : Params) (a : Addr) (c : Byte) (n : Nat) (l : Link) :
    writeCount (exchangeWR p a c n l).link.traffic =
      writeCount l.traffic + if (exchangeW p a [c] l).cause = .none then 2 else 1 := by
  by_cases acked : (exchangeW p a [c] l).cause = .none
  · rw [exchangeWR_of_acked acked, if_pos acked, writeCount_exchangeR, writeCount_exchangeW]
  · rw [exchangeWR_of_not_acked acked, if_neg acked, writeCount_exchangeW]

/-- An operation that answers has run, and LINK is as it left it. -/
theorem link_of_exec {i : Instr} {c : Call} {s t : State} (free : s.lock = .free) (ran : exec i s = .next t)
    (planned : plan i = .call c .plain) : refusesReconnect c s = false ∧ t.link = (operate c .plain s).link := by
  rw [exec_of_plan_call planned, runCall, if_neg (not_not.mpr free)] at ran
  split at ran
  case isTrue => cases ran
  case isFalse =>
    split at ran
    case isTrue => cases ran
    case isFalse accepted =>
      cases ran
      exact ⟨Bool.not_eq_true _ ▸ accepted, rfl⟩

theorem writeCount_operate_connect {s : State} (accepted : refusesReconnect .connect s = false) :
    writeCount (operate .connect .plain s).link.traffic = writeCount s.link.traffic := by
  cases connected : s.connected with
  | false =>
    rw [operate_connect_disconnected connected]
    exact writeCount_connectLink s.params s.link
  | true =>
    cases setting : s.params.reconnect with
    | refuse =>
      rw [refusesReconnect_eq, connected, setting] at accepted
      exact absurd accepted (by decide)
    | noopTrue => rw [operate_connect_noop connected setting]
    | reopen =>
      rw [operate_connect_reopen connected setting]
      exact writeCount_connectLink s.params s.link.close

theorem writeCount_operate_scan (s : State) :
    writeCount (operate .scan .plain s).link.traffic = writeCount s.link.traffic + if s.connected then 112 else 0 := by
  cases connected : s.connected with
  | false =>
    rw [operate_notConnected rfl connected]
    exact rfl
  | true =>
    obtain ⟨i, n, ended⟩ := operate_scan connected .plain
    have count := writeCount_probeAll s.params scanAddresses s.link
    rw [scanAddresses_length] at count
    rw [ended]
    generalize scanAddresses = as at count ⊢
    exact count

/-- Settles O58: each operation hands over the reports of its exchanges, and the operations on the handle hand over none. -/
theorem exchangesPerOperation : Obligations.ExchangesPerOperation := by
  intro s t a c v free
  refine ⟨fun ran => ?connect, fun ran => ?disconnect, fun ran => ?isconn, fun ran => ?scan, fun connected ran => ?sendbyte,
    fun connected ran => ?writeword, fun connected ran => ?readword, fun connected ran => ?blockread⟩ <;>
  obtain ⟨accepted, link⟩ := link_of_exec free ran rfl <;> rw [link]
  case connect => exact writeCount_operate_connect accepted
  case disconnect =>
    rw [operate_disconnect]
    dsimp only
    split <;> rfl
  case isconn =>
    rw [operate_isconn]
    dsimp only
    split <;> rfl
  case scan => exact writeCount_operate_scan s
  case sendbyte =>
    rw [operate_sendbyte connected]
    exact writeCount_exchangeW s.params a [c] s.link
  case writeword =>
    rw [operate_writeword connected]
    exact writeCount_exchangeW s.params a (c :: le16 v) s.link
  case readword =>
    rw [operate_readword connected]
    exact writeCount_exchangeWR s.params a c 2 s.link
  case blockread =>
    rw [operate_blockread connected]
    exact writeCount_exchangeWR s.params a c 33 s.link

/-! ### A sequence of one operation (R170) -/

/-- Any operation, and a sequence whose one operation it is. -/
theorem call_continued {c : Call} (valid : callOk c = true) {s : State} (free : s.lock = .free)
    (accepted : refusesReconnect c s = false) {k : Cont} (last : ∀ t, nextCall k t = none) :
    runCall c k s =
      .next { performCall c .plain s with
        cont := k, delivered := ⟨s.issuer, conclusion k (performCall c .plain s)⟩ :: s.delivered } := by
  rw [runCall_runs valid free accepted, performCall_continued (bodyCarriesUnwritten c) last]

theorem exec_eq_rdStr_of_mem {a : Addr} {i : Instr} {c : Byte}
    (row : (i, c) ∈ [(Instr.mfrId a, 0x99#8), (.mfrModel a, 0x9A#8), (.mfrRevision a, 0x9B#8), (.mfrSerial a, 0x9E#8)])
    (s : State) : exec i s = rdStr a c s := by
  simp only [List.mem_cons, List.not_mem_nil, or_false, Prod.mk.injEq] at row
  rcases row with ⟨rfl, rfl⟩ | ⟨rfl, rfl⟩ | ⟨rfl, rfl⟩ | ⟨rfl, rfl⟩ <;> rfl

/-- Settles O40: each row is BLOCKREAD with the continuation ASCDEC, which refuses the empty sequence alone. -/
theorem readStringRegisters : Obligations.ReadStringRegisters := by
  intro s a i c free valid row
  have ran : exec (.blockread a c) s = .next (performCall (.blockread a c) .plain s) := runCall_runs valid free rfl
  rw [exec_eq_rdStr_of_mem row s, rdStr, call_continued (c := .blockread a c) valid free rfl (fun _ => rfl)]
  refine ⟨_, ran, ?nothing, fun declared data bytes => ?text⟩
  case nothing =>
    intro bytes
    have concluded : conclusion .str (performCall (.blockread a c) .plain s) = .noResult := by
      rcases bytes with bytes | bytes
      · rw [conclusion, bytes]
      · rw [conclusion, bytes]
        rfl
    rw [concluded]
  case text =>
    have concluded : conclusion .str (performCall (.blockread a c) .plain s) = .text ((data.take declared.toNat).map char7) := by
      rw [conclusion, bytes]
      simp only [ascdec_cons]
    exact ⟨_, ascdec_cons declared data, by rw [concluded]⟩

/-! ### RD_VOUT (R172) -/

/-- What an operation leaves, in terms of what its agent sees when it is issued alone. -/
theorem performCall_undelivered (c : Call) (s : State) :
    { performCall c .plain s with delivered := s.delivered, draws := s.draws } = operate c .plain s := by
  rw [performCall_plain, operate_frame]
  simp only [withUnwritten, deliver, acquire_delivered, acquire_draws]

/-- The continuation an operation finds does not matter: Acquire writes its own. -/
theorem operate_setCont (c : Call) (k k' : Cont) (s : State) : operate c k { s with cont := k' } = operate c k s := by
  have acquired : acquire c k { s with cont := k' } = acquire c k s := by cases c <;> rfl
  rw [operate, operate, acquired]

theorem performCall_of_last {c : Call} {k : Cont} {s : State} (last : nextCall k (operate c k s) = none) :
    performCall c k s = deliver s.issuer (conclusion k (operate c k s)) (operate c k s) := by
  simp only [performCall, last]

theorem performCall_of_next {c c' : Call} {k k' : Cont} {s : State} (next : nextCall k (operate c k s) = some (c', k')) :
    performCall c k s =
      deliver s.issuer (conclusion k' (operate c' k' (operate c k s))) (operate c' k' (operate c k s)) := by
  simp only [performCall, next]

/-- RAW does not depend on the continuation. -/
theorem operate_raw (c : Call) (k k' : Cont) (s : State) : (operate c k' s).raw = (operate c k s).raw := by
  rw [operate_eq_setCont (bodyCarriesUnwritten c) k k' s]

theorem nextCall_vout_of_none {s : State} (no_word : s.raw = none) (a : Addr) : nextCall (.vout a) s = none := by
  rw [nextCall, no_word]

theorem nextCall_vout_of_some {s : State} {vm : Word} (word : s.raw = some vm) (a : Addr) :
    nextCall (.vout a) s = some (.readword a cmdReadVout, .l16 vm) := by
  rw [nextCall, word]

section
variable {s : State} {a : Addr}

/-- RD_VOUT ends at its first read where that has no word. -/
theorem performCall_vout_of_none (no_word : (operate (.readword a cmdVoutMode) .plain s).raw = none) :
    performCall (.readword a cmdVoutMode) (.vout a) s =
      { performCall (.readword a cmdVoutMode) .plain s with
        cont := .vout a, delivered := ⟨s.issuer, .noResult⟩ :: s.delivered } := by
  have first := operate_eq_setCont (bodyCarriesUnwritten (.readword a cmdVoutMode)) .plain (.vout a) s
  have delivered := operate_delivered (bodyCarriesUnwritten (.readword a cmdVoutMode)) .plain s
  rw [performCall_of_last (nextCall_vout_of_none ((operate_raw _ _ _ s).trans no_word) a), first, conclusion, deliver, delivered]
  rfl

/-- With a VOUT_MODE word it goes on with the READ_VOUT read, which runs as that read would alone. -/
theorem performCall_vout_of_some {vm : Word} (word : (operate (.readword a cmdVoutMode) .plain s).raw = some vm) :
    performCall (.readword a cmdVoutMode) (.vout a) s =
      { performCall (.readword a cmdReadVout) .plain (operate (.readword a cmdVoutMode) .plain s) with
        cont := .l16 vm
        delivered := ⟨s.issuer, conclusion (.l16 vm)
          (performCall (.readword a cmdReadVout) .plain (operate (.readword a cmdVoutMode) .plain s))⟩ :: s.delivered } := by
  have first := operate_eq_setCont (bodyCarriesUnwritten (.readword a cmdVoutMode)) .plain (.vout a) s
  have delivered := operate_delivered (bodyCarriesUnwritten (.readword a cmdVoutMode)) .plain s
  have issuer : (operate (.readword a cmdVoutMode) .plain s).issuer = s.issuer := by rw [operate_frame]; rfl
  have second := performCall_continued (bodyCarriesUnwritten (.readword a cmdReadVout)) (k := .l16 vm) (fun _ => rfl)
    (operate (.readword a cmdVoutMode) .plain s)
  rw [performCall_of_last rfl, issuer, delivered] at second
  rw [performCall_of_next (nextCall_vout_of_some ((operate_raw _ _ _ s).trans word) a), first, ← second]
  exact congrArg (fun t => deliver s.issuer (conclusion (.l16 vm) t) t) (operate_setCont _ _ _ _)

end

theorem conclusion_l16_of_none {s : State} (no_word : s.raw = none) (vm : Word) : conclusion (.l16 vm) s = .noResult := by
  rw [conclusion, no_word, ofRaw]

theorem conclusion_l16_of_some {s : State} {w : Word} (word : s.raw = some w) (vm : Word) :
    conclusion (.l16 vm) s = .reading w (l16dec w vm) := by
  rw [conclusion, word, ofRaw]

/-- Settles O38: RD_VOUT is its first read where that has no word, else its second, issued where the first has ended. -/
theorem readVoutSequence : Obligations.ReadVoutSequence := by
  refine ⟨fun s a free valid => ?vout, fun s a free valid => ?mode⟩
  case vout =>
    have ran : exec (.readword a 0x20) s = .next (performCall (.readword a cmdVoutMode) .plain s) :=
      runCall_runs valid free rfl
    have row : exec (.readVout a) s = .next (performCall (.readword a cmdVoutMode) (.vout a) s) :=
      runCall_runs (c := .readword a cmdVoutMode) valid free rfl
    refine ⟨_, ran, fun no_word => ?noMode, fun vm word => ?withMode⟩
    case noMode => rw [row, performCall_vout_of_none no_word]
    case withMode =>
      rw [performCall_undelivered, row, performCall_vout_of_some word]
      refine ⟨_, runCall_runs (c := .readword a cmdReadVout) valid rfl rfl, fun no_word => ?_, fun w word => ?_⟩
      · rw [conclusion_l16_of_none no_word]
      · rw [conclusion_l16_of_some word]
  case mode =>
    obtain ⟨u, ran, -, continued⟩ := readword_continued (k := .mode) (fun _ => rfl) free valid 0x20
    have row : exec (.voutMode a) s = runCall (.readword a 0x20) .mode s := rfl
    rw [row, continued]
    exact ⟨u, ran, fun no_word => by rw [conclusion, no_word, ofRaw], fun w word => by rw [conclusion, word, ofRaw]⟩

/-! ### WR_LIMIT (R173) -/

section
variable {s : State} {a : Addr} (free : s.lock = .free) (valid : addrOk a = true) {v : F64} (c : Byte)
include free valid

theorem wrLimit_of_word {w : Word} (encoded : l11enc s.params s.draws v = .word w) :
    wrLimit a c v s = runCall (.writeword a c w) .plain { s with draws := s.draws + 1 } := by
  simp only [wrLimit, valid, free, encoded]
  rfl

theorem wrLimit_of_refused (refused : ∀ w, l11enc s.params s.draws v ≠ .word w) : wrLimit a c v s = answer .noResult s := by
  simp only [wrLimit, valid, free]
  cases encoded : l11enc s.params s.draws v with
  | word w => exact absurd encoded (refused w)
  | notFinite => rfl
  | outOfRange => rfl

end

theorem exec_eq_wrLimit_of_mem {a : Addr} {v : F64} {i : Instr} {c : Byte}
    (row : (i, c) ∈ [(Instr.voutOvFaultLimit a (.write v), 0x40#8), (.ioutOcFaultLimit a (.write v), 0x46#8),
      (.otFaultLimit a (.write v), 0x4F#8)]) (s : State) : exec i s = wrLimit a c v s := by
  simp only [List.mem_cons, List.not_mem_nil, or_false, Prod.mk.injEq] at row
  rcases row with ⟨rfl, rfl⟩ | ⟨rfl, rfl⟩ | ⟨rfl, rfl⟩ <;> rfl

/-- Settles O41: the word L11ENC answers is the one WRITEWORD sends; a refused value sends nothing. -/
theorem writeLimitRegisters : Obligations.WriteLimitRegisters := by
  intro s a v i c free valid row
  rw [exec_eq_wrLimit_of_mem row s]
  refine ⟨fun refused => ?refused, fun e w ran delivered => ?sent⟩
  case refused =>
    refine wrLimit_of_refused free valid c fun w encoded => ?_
    rw [exec_l11enc_of_word encoded] at refused
    cases refused
  case sent =>
    cases encoded : l11enc s.params s.draws v with
    | notFinite => rw [exec_l11enc_of_notFinite encoded] at ran; cases ran
    | outOfRange => rw [exec_l11enc_of_outOfRange encoded] at ran; cases ran
    | word _ =>
      rw [exec_l11enc_of_word encoded] at ran
      cases ran
      cases delivered
      rw [wrLimit_of_word free valid c encoded]
      have ran := runCall_runs (c := .writeword a c w) (k := .plain) (s := { s with draws := s.draws + 1 }) valid free rfl
      exact ⟨_, ran, ran⟩

end Sys2Proof.Machine
end

section
/-! What issuing an instruction can come to, by its plan (10_state.md R20, 20_memory.md R41): it waits, it answers at once, or it runs
an operation; and what a HOST agent's turn can come to while an operation is in progress. -/

namespace Sys2Proof.Machine

/-! ### The report rows and the lock -/

theorem exec_framer_held {i : Instr} (framer : plan i = .framer) {s : State} (held : s.lock ≠ .free) : exec i s = .next s := by
  cases i with
  | hidWrite | hidRead | hidResp | scanProbe | sendbyteReport | writewordReport | readwordReadphase | blockreadReadphase =>
    exact if_pos held
  | voutOvFaultLimit a acc | ioutOcFaultLimit a acc | otFaultLimit a acc => cases acc <;> cases framer
  | _ => cases framer

/-- `t` is `s` with a result delivered to the issuing agent, and nothing else written but CAUSE, OUT and IN. -/
def Answers (s t : State) : Prop :=
  ∃ r c o ib n, t = deliver s.issuer r { s with cause := c, out := o, inb := ib, inLen := n }

section
variable {s : State} (free : s.lock = .free)
include free

theorem buildWrite_answers (a : Addr) (pay : List Byte) : ∃ t, buildWrite a pay s = .next t ∧ Answers s t := by
  rcases le_or_gt pay.length Config.maxPayload with fits | tooLong
  · exact ⟨_, buildWrite_of_fits free a fits, _, _, _, _, _, rfl⟩
  · exact ⟨_, buildWrite_of_tooLong free a tooLong, _, _, _, _, _, rfl⟩

theorem buildRead_answers (a : Addr) (n : Byte) : ∃ t, buildRead a n s = .next t ∧ Answers s t := by
  rcases le_or_gt n.toNat Config.maxPayload with fits | tooLong
  · exact ⟨_, buildRead_of_fits free a fits, _, _, _, _, _, rfl⟩
  · exact ⟨_, buildRead_of_tooLong free a tooLong, _, _, _, _, _, rfl⟩

theorem exec_framer_free {i : Instr} (framer : plan i = .framer) : ∃ t, exec i s = .next t ∧ Answers s t := by
  cases i with
  | hidWrite a pay => exact buildWrite_answers free a pay
  | scanProbe a => exact buildWrite_answers free a []
  | sendbyteReport a c => exact buildWrite_answers free a [c]
  | writewordReport a c v => exact buildWrite_answers free a (c :: le16 v)
  | hidRead a n => exact buildRead_answers free a n
  | readwordReadphase a => exact buildRead_answers free a _
  | blockreadReadphase a => exact buildRead_answers free a _
  | hidResp r => exact ⟨_, if_neg (not_not.mpr free), _, _, _, _, _, rfl⟩
  | voutOvFaultLimit a acc | ioutOcFaultLimit a acc | otFaultLimit a acc => cases acc <;> cases framer
  | _ => cases framer

end

/-! ### The calls and the lock -/

theorem wellFormed_of_plan_call {i : Instr} {c : Call} {k : Cont} (planned : plan i = .call c k) :
    i.wellFormed = callOk c := by
  cases i with
  | voutOvFaultLimit a acc | ioutOcFaultLimit a acc | otFaultLimit a acc => cases acc <;> cases planned; rfl
  | _ => cases planned <;> rfl

theorem wellFormed_of_plan_limitWrite {i : Instr} {a : Addr} {c : Byte} {v : F64} (planned : plan i = .limitWrite a c v) :
    i.wellFormed = addrOk a := by
  cases i with
  | voutOvFaultLimit a acc | ioutOcFaultLimit a acc | otFaultLimit a acc => cases acc <;> cases planned; rfl
  | _ => cases planned

theorem wrLimit_waits {a : Addr} (valid : addrOk a = true) (c : Byte) (v : F64) {s : State} (held : s.lock ≠ .free) :
    wrLimit a c v s = .next s := by
  simp only [wrLimit, valid, if_pos held]
  rfl

/-- With the lock held, a well-formed instruction that needs it has no effect (R41). -/
theorem exec_held {i : Instr} {s : State} (held : s.lock ≠ .free) (well_formed : i.wellFormed = true)
    (needs : plan i ≠ .codec) : exec i s = .next s := by
  cases planned : plan i with
  | codec => exact absurd planned needs
  | framer => exact exec_framer_held planned held
  | call c k => rw [exec_of_plan_call planned, runCall_waits ((wellFormed_of_plan_call planned).symm.trans well_formed) held]
  | limitWrite a c v =>
    rw [exec_of_plan_limitWrite planned,
      wrLimit_waits ((wellFormed_of_plan_limitWrite planned).symm.trans well_formed) c v held]

theorem mustWait_of_held {i : Instr} {s : State} (held : s.lock ≠ .free) (well_formed : i.wellFormed = true)
    (needs : plan i ≠ .codec) : mustWait i s = true := by
  simp only [mustWait, needsLock, well_formed, bne_iff_ne.mpr needs, bne_iff_ne.mpr held]
  rfl

/-- The operation a sequence goes on with waits for the lock like any other (R41). -/
theorem hostTurn_call_held {h : Nat} {s : State} {c : Call} {k : Cont} {rest : List Pending} (held : s.lock ≠ .free)
    (first : takeFirst h s.port = some (.call c k, rest)) : hostTurn h s = .next s := by
  unfold hostTurn
  simp only [first, if_pos held, ite_self]

theorem hostTurn_request_held {h : Nat} {s : State} {f : Fmt} {bs : List Byte} {rest : List Pending} {i : Instr}
    (held : s.lock ≠ .free) (first : takeFirst h s.port = some (.request f bs, rest)) (decoded : decode f bs = .ok i)
    (well_formed : i.wellFormed = true) (needs : plan i ≠ .codec) : hostTurn h s = .next s := by
  rcases eq_or_ne s.lock (.held h) with own | other
  · exact hostTurn_waits own
  · rw [hostTurn_request other first decoded, if_pos (mustWait_of_held held well_formed needs)]

/-- Settles O46: what waits is told by the plan, in `exec` and in `mustWait` alike; the holder's turn is looked at first. -/
theorem lockedOutAgentWaits : Obligations.LockedOutAgentWaits := by
  refine ⟨fun i s held well_formed needs => exec_held held well_formed needs, fun s h ts turn held => ⟨?request, ?call⟩,
    fun s h ts turn own => ?holder⟩
  case request =>
    intro f bs rest i first decoded well_formed needs
    rw [step_host turn]
    exact hostTurn_request_held held first decoded well_formed needs
  case call =>
    intro c k rest first
    rw [step_host turn]
    exact hostTurn_call_held held first
  case holder =>
    rw [step_host turn]
    exact hostTurn_waits own

/-! ### All that an instruction can do -/

/-- The operation an instruction's run begins with: its plan's, or the WRITEWORD of a limit's word (R173). -/
def Issues (i : Instr) (c : Call) (k : Cont) : Prop :=
  plan i = .call c k ∨ ∃ a cmd v w, plan i = .limitWrite a cmd v ∧ c = .writeword a cmd w ∧ k = .plain

theorem runCall_next {c : Call} {k : Cont} {s t : State} (ran : runCall c k s = .next t) :
    (s.lock ≠ .free ∧ t = s) ∨ t = performCall c k s := by
  unfold runCall at ran
  split at ran
  · cases ran
  · split at ran
    case isTrue held => exact .inl ⟨held, (Host.Outcome.next.inj ran).symm⟩
    case isFalse =>
      split at ran
      · cases ran
      · exact .inr (Host.Outcome.next.inj ran).symm

theorem wrLimit_next {a : Addr} {c : Byte} {v : F64} {s t : State} (ran : wrLimit a c v s = .next t) :
    (s.lock ≠ .free ∧ t = s) ∨ t = deliver s.issuer .noResult s ∨
      ∃ w, t = performCall (.writeword a c w) .plain { s with draws := s.draws + 1 } := by
  cases valid : addrOk a with
  | false => rw [wrLimit_badAddress valid] at ran; cases ran
  | true =>
    rcases ne_or_eq s.lock .free with held | free
    · rw [wrLimit_waits valid c v held] at ran
      exact .inl ⟨held, (Host.Outcome.next.inj ran).symm⟩
    · by_cases encodes : ∃ w, l11enc s.params s.draws v = .word w
      · obtain ⟨w, encoded⟩ := encodes
        rw [wrLimit_of_word free valid c encoded] at ran
        rcases runCall_next ran with ⟨held, -⟩ | performed
        · exact absurd free held
        · exact .inr (.inr ⟨w, performed⟩)
      · rw [wrLimit_of_refused free valid c (not_exists.mp encodes)] at ran
        exact .inr (.inl (Host.Outcome.next.inj ran).symm)

/-- An instruction that answers has waited for the lock, has answered at once, or has run its operation. -/
theorem exec_next {i : Instr} {s t : State} (ran : exec i s = .next t) :
    (s.lock ≠ .free ∧ t = s) ∨ Answers s t ∨ ∃ c k d, Issues i c k ∧ t = performCall c k { s with draws := d } := by
  cases planned : plan i with
  | codec =>
    obtain ⟨f, function⟩ := exists_codecFunction planned
    rw [function.exec_eq] at ran
    cases outcome : f s.params s.draws with
    | error e => rw [outcome] at ran; cases ran
    | ok r =>
      rw [outcome] at ran
      exact .inr (.inl ⟨r, _, _, _, _, (Host.Outcome.next.inj ran).symm⟩)
  | framer =>
    rcases ne_or_eq s.lock .free with held | free
    · rw [exec_framer_held planned held] at ran
      exact .inl ⟨held, (Host.Outcome.next.inj ran).symm⟩
    · obtain ⟨u, ran', answers⟩ := exec_framer_free free planned
      rw [ran'] at ran
      cases ran
      exact .inr (.inl answers)
  | call c k =>
    rw [exec_of_plan_call planned] at ran
    rcases runCall_next ran with waited | performed
    · exact .inl waited
    · exact .inr (.inr ⟨c, k, s.draws, .inl planned, performed⟩)
  | limitWrite a c v =>
    rw [exec_of_plan_limitWrite planned] at ran
    rcases wrLimit_next ran with waited | refused | ⟨w, performed⟩
    · exact .inl waited
    · exact .inr (.inl ⟨.noResult, _, _, _, _, refused⟩)
    · exact .inr (.inr ⟨_, _, _, .inr ⟨a, c, v, w, planned, rfl, rfl⟩, performed⟩)

/-- What every operation keeps, a sequence of them keeps. -/
theorem performCall_keeps {α : Type} {f : State → α} (delivered : ∀ h r t, f (deliver h r t) = f t) {c : Call} {k : Cont}
    {s : State} (first : f (operate c k s) = f s) (second : ∀ a vm t, f (operate (.readword a cmdReadVout) (.l16 vm) t) = f t) :
    f (performCall c k s) = f s := by
  cases next : nextCall k (operate c k s) with
  | none => rw [performCall_of_last next, delivered, first]
  | some ck =>
    obtain ⟨a, vm, rfl⟩ : ∃ a vm, ck = (.readword a cmdReadVout, .l16 vm) := by
      unfold nextCall at next
      split at next
      · split at next
        · exact ⟨_, _, (Option.some.inj next).symm⟩
        · cases next
      all_goals cases next
    rw [performCall_of_next next, delivered, second, first]

theorem performCall_released (c : Call) (k : Cont) (s : State) :
    (performCall c k s).lock = .free ∧ (performCall c k s).phase = .idle := by
  unfold performCall
  dsimp only
  split <;> exact ⟨rfl, rfl⟩

/-- Settles O56: an instruction that runs an operation ends with its release, and no other touches the lock or PHASE. -/
theorem lockNeverLeftHeld : Obligations.LockNeverLeftHeld := by
  intro i s t free ran
  rcases exec_next ran with ⟨held, -⟩ | ⟨_, _, _, _, _, rfl⟩ | ⟨c, k, d, -, rfl⟩
  · exact absurd free held
  · exact ⟨free, .inr rfl⟩
  · obtain ⟨lock, phase⟩ := performCall_released c k { s with draws := d }
    exact ⟨lock, .inl phase⟩

/-! ### A HOST agent's turn (R36, R40, R140) -/

/-- With the lock held, what is issued without waiting is a codec's, a report row that does nothing, or has a reserved address. -/
theorem issue_held_next {i : Instr} {s t : State} (held : s.lock ≠ .free) (no_wait : ¬ mustWait i s = true)
    (issued : issue i s = .next t) : ∃ d m, t = { s with delivered := d, draws := m } := by
  have reserved (needs : plan i ≠ .codec) : i.wellFormed = false :=
    Bool.eq_false_iff.mpr fun well_formed => no_wait (mustWait_of_held held well_formed needs)
  unfold issue at issued
  cases planned : plan i with
  | codec =>
    obtain ⟨g, function⟩ := exists_codecFunction planned
    simp only [planned, function.exec_eq] at issued
    cases outcome : g s.params s.draws with
    | error e => rw [outcome] at issued; cases issued
    | ok r => rw [outcome] at issued; exact ⟨_, _, (Host.Outcome.next.inj issued).symm⟩
  | framer =>
    simp only [planned, exec_framer_held planned held] at issued
    exact ⟨_, _, (Host.Outcome.next.inj issued).symm⟩
  | call c k =>
    have bad : callOk c = false := (wellFormed_of_plan_call planned).symm.trans (reserved (by rw [planned]; nofun))
    simp only [planned, beginCall, bad] at issued
    cases issued
  | limitWrite a c v =>
    have bad : addrOk a = false := (wellFormed_of_plan_limitWrite planned).symm.trans (reserved (by rw [planned]; nofun))
    simp only [planned, beginLimitWrite, bad] at issued
    cases issued

/-- All that a HOST agent's turn can come to: nothing, a rejected request, a sequence's next operation begun, an instruction issued. -/
theorem hostTurn_cases (h : Nat) (s : State) :
    hostTurn h s = .next s ∨ (∃ e, hostTurn h s = .refused e) ∨
      (∃ c k rest, s.lock = .free ∧ hostTurn h s = beginCall c k { s with port := rest, issuer := h }) ∨
      ∃ i rest, mustWait i s = false ∧ hostTurn h s = issue i { s with port := rest, issuer := h } := by
  unfold hostTurn
  split
  · exact .inl rfl
  split
  · exact .inl rfl
  case h_2 c k rest _ =>
    rcases ne_or_eq s.lock .free with held | free
    · exact .inl (if_pos held)
    · exact .inr (.inr (.inl ⟨c, k, rest, free, if_neg (not_not.mpr free)⟩))
  split
  · exact .inr (.inl ⟨_, rfl⟩)
  case h_2 i _ =>
    cases waits : mustWait i s with
    | true => exact .inl rfl
    | false => exact .inr (.inr (.inr ⟨i, _, waits, rfl⟩))

/-- While an operation is in progress, a turn writes nothing but the port, the issuing agent and what a codec answers. -/
theorem hostTurn_held_next {h : Nat} {s t : State} (held : s.lock ≠ .free) (turned : hostTurn h s = .next t) :
    ∃ p n d m, t = { s with port := p, issuer := n, delivered := d, draws := m } := by
  rcases hostTurn_cases h s with waits | ⟨e, rejected⟩ | ⟨_, _, _, free, -⟩ | ⟨i, rest, no_wait, issues⟩
  · exact ⟨_, _, _, _, Host.Outcome.next.inj (turned.symm.trans waits)⟩
  · cases rejected.symm.trans turned
  · exact absurd free held
  · obtain ⟨d, m, same⟩ := issue_held_next (s := { s with port := rest, issuer := h }) held
      (Bool.eq_false_iff.mp no_wait) (issues.symm.trans turned)
    exact ⟨_, _, _, _, same⟩

/-- Settles O48: a turn writes none of what `SameBlock` lists. -/
theorem operationIsNotDisturbed : Obligations.OperationIsNotDisturbed := by
  intro s t h ts turn held stepped
  rw [step_host turn] at stepped
  obtain ⟨p, n, d, m, rfl⟩ := hostTurn_held_next (s := { s with turns := ts }) held stepped
  constructor <;> rfl

/-! ### The prologue, a step at a time (R140) -/

theorem mustWait_of_free (i : Instr) {s : State} (free : s.lock = .free) : mustWait i s = false := by
  rw [mustWait, free]
  exact Bool.and_false _

theorem beginCall_begins {c : Call} {s : State} (valid : callOk c = true) (accepted : refusesReconnect c s = false) (k : Cont) :
    beginCall c k s = .next (takeLock c k s) := by
  simp only [beginCall, valid, accepted]
  rfl

/-- With the lock free, an instruction at the port is issued at its agent's turn. -/
theorem hostTurn_free_request {h : Nat} {s : State} {f : Fmt} {bs : List Byte} {rest : List Pending} {i : Instr}
    (free : s.lock = .free) (first : takeFirst h s.port = some (.request f bs, rest)) (decoded : decode f bs = .ok i) :
    hostTurn h s = issue i { s with port := rest, issuer := h } := by
  rw [hostTurn_request (by rw [free]; nofun) first decoded, mustWait_of_free i free]
  rfl

theorem hostTurn_free_call {h : Nat} {s : State} {c : Call} {k : Cont} {rest : List Pending} (free : s.lock = .free)
    (first : takeFirst h s.port = some (.call c k, rest)) :
    hostTurn h s = beginCall c k { s with port := rest, issuer := h } := by
  simp only [hostTurn, first, free]
  rfl

/-- A turn that begins an operation takes the lock, and no more. -/
theorem hostTurn_begins {s : State} {h : Nat} {c : Call} {k : Cont} {rest : List Pending} {d : Nat} (free : s.lock = .free)
    (begins : TurnBegins s h c k rest d) (valid : callOk c = true) (accepted : refusesReconnect c s = false) :
    hostTurn h s = .next (takeLock c k { s with port := rest, issuer := h, draws := d }) := by
  rcases begins with ⟨f, bs, i, first, decoded, planned, rfl⟩ | ⟨first, rfl⟩ |
    ⟨f, bs, i, a, cmd, v, w, first, decoded, planned, encoded, rfl, rfl, rfl⟩
  · rw [hostTurn_free_request free first decoded, issue, planned]
    exact beginCall_begins valid (by exact accepted) k
  · rw [hostTurn_free_call free first]
    exact beginCall_begins valid (by exact accepted) k
  · have valid_address : addrOk a = true := valid
    rw [hostTurn_free_request free first decoded, issue, planned]
    simp only [beginLimitWrite, valid_address, encoded]
    exact beginCall_begins valid (by exact accepted) .plain

/-- Settles O47: whichever way the operation begins its agent takes the lock, and the two lines after it are `latch` and
`clearCause`. -/
theorem prologueTakesLock : Obligations.PrologueTakesLock := by
  refine ⟨fun s h ts c k rest d turn free begins valid accepted => ?begins,
    fun s h ts f bs rest i a c v turn free first decoded planned valid refused => ?refused⟩
  case begins =>
    have began := hostTurn_begins (s := { s with turns := ts }) free begins valid accepted
    refine ⟨_, goto .clearCause (latchOperands c _), (step_host turn).trans began, seqStep_runs rfl rfl,
      seqStep_runs rfl (by cases c <;> rfl), rfl, by cases c <;> rfl, ?_, ?_, ?_⟩
    · rintro a b (rfl | rfl | rfl) <;> exact ⟨rfl, rfl, rfl⟩
    · rintro a b v rfl
      exact ⟨rfl, rfl, rfl⟩
    · rintro (rfl | rfl | rfl | rfl) <;> exact ⟨rfl, rfl, rfl⟩
  case refused =>
    rw [step_host turn, hostTurn_free_request (s := { s with turns := ts }) free first decoded, issue, planned]
    simp only [beginLimitWrite, valid]
    cases encoded : l11enc s.params s.draws v with
    | word w => exact absurd encoded (refused w)
    | notFinite => rfl
    | outOfRange => rfl

end Sys2Proof.Machine
end

section
/-! The lines of the SEQUENCER (43_transport_ops.md R140 to R149): what no line writes, which call on LINK a line makes, and which line
and PHASE come after it. -/

namespace Sys2Proof.Machine

/-! ### What no line writes but the latching and the release -/

/-- The parameters, the lock, the operands and what concerns the HOST agents. -/
structure Fixed where
  params : Params
  lock : Lock
  op : Op
  addr : Addr
  cmd : Byte
  wdata : Word
  port : List Pending
  issuer : Nat
  cont : Cont
  delivered : List Delivery

def State.fixed (s : State) : Fixed where
  params := s.params
  lock := s.lock
  op := s.op
  addr := s.addr
  cmd := s.cmd
  wdata := s.wdata
  port := s.port
  issuer := s.issuer
  cont := s.cont
  delivered := s.delivered

/-- `t` is `s` after half an exchange: PAY, RLEN, CAUSE, the buffers, PHASE, the read deadline and LINK alone are written. -/
def OnlyExchanges (s t : State) : Prop :=
  ∃ p n c o b l ph d k, t = { s with
    pay := p, rlen := n, cause := c, out := o, inb := b, inLen := l, phase := ph, readDeadline := d, link := k }

theorem OnlyExchanges.fixed {s t : State} (only : OnlyExchanges s t) : t.fixed = s.fixed := by
  obtain ⟨_, _, _, _, _, _, _, _, _, rfl⟩ := only
  rfl

theorem OnlyExchanges.scanPtr {s t : State} (only : OnlyExchanges s t) : t.scanPtr = s.scanPtr := by
  obtain ⟨_, _, _, _, _, _, _, _, _, rfl⟩ := only
  rfl

theorem sendWrite_onlyExchanges (a : Addr) (pay : List Byte) (s : State) : OnlyExchanges s (sendWrite a pay s).2 := by
  rcases le_or_gt pay.length Config.maxPayload with fits | tooLong
  · cases handed : s.link.nextWrite
    case ok => rw [sendWrite_ok fits handed]; exact ⟨_, _, _, _, _, _, _, _, _, rfl⟩
    case error => rw [sendWrite_error fits handed]; exact ⟨_, _, _, _, _, _, _, _, _, rfl⟩
  · rw [sendWrite_tooLong tooLong]; exact ⟨_, _, _, _, _, _, _, _, _, rfl⟩

theorem sendRead_onlyExchanges (a : Addr) (n : Nat) (s : State) : OnlyExchanges s (sendRead a n s).2 := by
  rcases le_or_gt n Config.maxPayload with fits | tooLong
  · cases handed : s.link.nextWrite
    case ok => rw [sendRead_ok fits handed]; exact ⟨_, _, _, _, _, _, _, _, _, rfl⟩
    case error => rw [sendRead_error fits handed]; exact ⟨_, _, _, _, _, _, _, _, _, rfl⟩
  · rw [sendRead_tooLong tooLong]; exact ⟨_, _, _, _, _, _, _, _, _, rfl⟩

theorem recvAck_onlyExchanges (s : State) : OnlyExchanges s (recvAck s).2 := by
  rw [recvAck_eq]
  cases s.link.nextRead s.params.lIn
  case timeout => exact ⟨_, _, _, _, _, _, _, _, _, rfl⟩
  case error => exact ⟨_, _, _, _, _, _, _, _, _, rfl⟩
  case report r => dsimp only; split <;> exact ⟨_, _, _, _, _, _, _, _, _, rfl⟩

theorem recvData_onlyExchanges (s : State) : OnlyExchanges s (recvData s).2 := by
  rw [recvData_eq]
  cases s.link.nextRead s.params.lIn
  case timeout => exact ⟨_, _, _, _, _, _, _, _, _, rfl⟩
  case error => exact ⟨_, _, _, _, _, _, _, _, _, rfl⟩
  case report r => dsimp only; split <;> exact ⟨_, _, _, _, _, _, _, _, _, rfl⟩

theorem failed_fixed (s : State) : (failed s).fixed = s.fixed := by
  unfold failed setNegative
  split <;> rfl

theorem afterSend_fixed (l : Line) (sent : Bool × State) : (afterSend l sent).fixed = sent.2.fixed := by
  obtain ⟨_ | _, t⟩ := sent
  · exact failed_fixed t
  · rfl

theorem stepAckCmd_fixed (s : State) : (stepAckCmd s).fixed = s.fixed := by
  have received := (recvAck_onlyExchanges s).fixed
  unfold stepAckCmd
  generalize recvAck s = answer at received
  obtain ⟨_ | _, t⟩ := answer
  · exact (failed_fixed t).trans received
  · exact received

theorem stepSendRead_fixed (s : State) : (stepSendRead s).fixed = s.fixed := by
  have sent := (sendRead_onlyExchanges s.addr (readLen s.op) s).fixed
  unfold stepSendRead
  generalize sendRead s.addr (readLen s.op) s = result at sent
  obtain ⟨_ | _, t⟩ := result <;> exact sent

theorem stepProbe_fixed (s : State) : (stepProbe s).fixed = s.fixed := by
  have sent := (sendWrite_onlyExchanges (scanAddr s) [] s).fixed
  unfold stepProbe
  generalize sendWrite (scanAddr s) [] s = result at sent
  obtain ⟨_ | _, t⟩ := result <;> exact sent

/-- The frame of a line (L-2): only the latching writes an operand, only the release frees the lock and delivers. -/
theorem runLine_fixed {s : State} (not_latch : ∀ c, s.line ≠ .latch c) (not_release : s.line ≠ .release) :
    (runLine s).fixed = s.fixed := by
  unfold runLine
  cases at_line : s.line with
  | latch c => exact absurd at_line (not_latch c)
  | release => exact absurd at_line not_release
  | idle | clearCause | setTimeout | setConnected | wait | takeWord | takeBytes | scanInit | advance | scanEnd => rfl
  | connectedTest => dsimp only; unfold testConnected; split; exacts [failed_fixed _, rfl]
  | whenConnected => dsimp only [whenConnected]; split <;> [split; skip] <;> rfl
  | enumerate => dsimp only [stepEnumerate]; split <;> rfl
  | anyDevice ds => cases ds <;> rfl
  | openDev d => dsimp only [stepOpen]; split <;> rfl
  | disconnect => dsimp only [bodyDisconnect]; split <;> rfl
  | isconn => dsimp only [bodyIsconn]; split <;> rfl
  | sendOk | sendCmd => exact (afterSend_fixed _ _).trans (sendWrite_onlyExchanges _ _ s).fixed
  | ackOk => exact (recvAck_onlyExchanges s).fixed
  | ackCmd => exact stepAckCmd_fixed s
  | sendRead => exact stepSendRead_fixed s
  | recvRead => exact (recvData_onlyExchanges s).fixed
  | noData d => cases d <;> rfl
  | shortData d => dsimp only [stepShortData]; split <;> rfl
  | scanWhile => dsimp only [stepScanWhile]; split <;> rfl
  | probe => exact stepProbe_fixed s
  | probeAck => exact (recvAck_onlyExchanges s).fixed

/-! ### The call a line makes (R10) -/

/-- From `s` to `t`, at the line `l`, at most one call is made, and it is one the line may make. -/
def OneCall (l : Line) (s t : State) : Prop :=
  t.link.traffic = s.link.traffic ∨
    ∃ c : LinkCall, t.link.traffic = c :: s.link.traffic ∧
      (∀ buf ans, c = .write buf ans → l = .sendOk ∨ l = .sendCmd ∨ l = .sendRead ∨ l = .probe) ∧
      (∀ ans, c = .read ans → awaiting l = true)

theorem oneCall_of_hidWrite {l : Line} {s t : State} (sends : l = .sendOk ∨ l = .sendCmd ∨ l = .sendRead ∨ l = .probe)
    (handed : t.link = s.link ∨ ∃ buf, t.link = s.link.hidWrite buf) : OneCall l s t := by
  rcases handed with same | ⟨buf, handed⟩
  · exact .inl (congrArg Link.traffic same)
  · exact .inr ⟨.write buf s.link.nextWrite, congrArg Link.traffic handed, fun _ _ _ => sends, nofun⟩

theorem oneCall_of_hidRead {l : Line} {s t : State} (awaits : awaiting l = true) {cap : Nat}
    (asked : t.link = s.link.hidRead cap) : OneCall l s t :=
  .inr ⟨.read (s.link.nextRead cap), congrArg Link.traffic asked, nofun, fun _ _ => awaits⟩

theorem sendWrite_link (a : Addr) (pay : List Byte) (s : State) :
    (sendWrite a pay s).2.link = s.link ∨ ∃ buf, (sendWrite a pay s).2.link = s.link.hidWrite buf := by
  rcases le_or_gt pay.length Config.maxPayload with fits | tooLong
  · cases handed : s.link.nextWrite
    case ok => rw [sendWrite_ok fits handed]; exact .inr ⟨_, rfl⟩
    case error => rw [sendWrite_error fits handed]; exact .inr ⟨_, rfl⟩
  · rw [sendWrite_tooLong tooLong]; exact .inl rfl

theorem readLen_le (o : Op) : readLen o ≤ Config.maxPayload := by cases o <;> decide

/-- XREAD up to HidWrite never finds its request too long: READWORD asks for 2 bytes and BLOCKREAD for 33. -/
theorem sendRead_link (a : Addr) (o : Op) (s : State) :
    (sendRead a (readLen o) s).2.link = s.link.hidWrite (frameR s.params a (BitVec.ofNat 8 (readLen o))) := by
  cases handed : s.link.nextWrite
  case ok => rw [sendRead_ok (readLen_le o) handed]; rfl
  case error => rw [sendRead_error (readLen_le o) handed]; rfl

theorem recvAck_link (s : State) : (recvAck s).2.link = s.link.hidRead s.params.lIn := by
  rw [recvAck_eq]
  cases s.link.nextRead s.params.lIn
  case timeout => rfl
  case error => rfl
  case report r => dsimp only; split <;> rfl

theorem recvData_link (s : State) : (recvData s).2.link = s.link.hidRead s.params.lIn := by
  rw [recvData_eq]
  cases s.link.nextRead s.params.lIn
  case timeout => rfl
  case error => rfl
  case report r => dsimp only; split <;> rfl

theorem afterSend_link (l : Line) (sent : Bool × State) : (afterSend l sent).link = sent.2.link := by
  obtain ⟨_ | _, t⟩ := sent
  · exact failed_link t
  · rfl

theorem stepAckCmd_link (s : State) : (stepAckCmd s).link = s.link.hidRead s.params.lIn := by
  have asked := recvAck_link s
  unfold stepAckCmd
  generalize recvAck s = answer at asked
  obtain ⟨_ | _, t⟩ := answer
  · exact (failed_link t).trans asked
  · exact asked

theorem stepSendRead_link (s : State) :
    (stepSendRead s).link = s.link.hidWrite (frameR s.params s.addr (BitVec.ofNat 8 (readLen s.op))) := by
  have handed := sendRead_link s.addr s.op s
  unfold stepSendRead
  generalize sendRead s.addr (readLen s.op) s = result at handed
  obtain ⟨_ | _, t⟩ := result <;> exact handed

theorem stepProbe_link (s : State) : (stepProbe s).link = (sendWrite (scanAddr s) [] s).2.link := by
  unfold stepProbe
  generalize sendWrite (scanAddr s) [] s = result
  obtain ⟨_ | _, t⟩ := result <;> rfl

theorem runLine_oneCall (s : State) : OneCall s.line s (runLine s) := by
  unfold runLine
  cases s.line with
  | latch c => cases c <;> exact .inl rfl
  | idle | clearCause | setConnected | wait | takeWord | takeBytes | scanInit | advance | scanEnd => exact .inl rfl
  | connectedTest => dsimp only [testConnected]; split; exacts [.inl (congrArg Link.traffic (raise_link _ s)), .inl rfl]
  | whenConnected =>
    dsimp only [whenConnected]
    split
    · split
      exacts [.inl rfl, .inl rfl, .inr ⟨_, rfl, nofun, nofun⟩]
    · exact .inl rfl
  | enumerate => dsimp only [stepEnumerate]; split <;> exact .inr ⟨_, rfl, nofun, nofun⟩
  | anyDevice ds => cases ds <;> exact .inl rfl
  | openDev d => dsimp only [stepOpen]; split <;> exact .inr ⟨_, rfl, nofun, nofun⟩
  | setTimeout d => exact .inr ⟨_, rfl, nofun, nofun⟩
  | disconnect => dsimp only [bodyDisconnect]; split; exacts [.inr ⟨_, rfl, nofun, nofun⟩, .inl rfl]
  | isconn => dsimp only [bodyIsconn]; split <;> exact .inl rfl
  | sendOk => exact oneCall_of_hidWrite (.inl rfl) (afterSend_link _ _ ▸ sendWrite_link _ _ s)
  | sendCmd => exact oneCall_of_hidWrite (.inr (.inl rfl)) (afterSend_link _ _ ▸ sendWrite_link _ _ s)
  | sendRead => exact oneCall_of_hidWrite (.inr (.inr (.inl rfl))) (.inr ⟨_, stepSendRead_link s⟩)
  | probe => exact oneCall_of_hidWrite (.inr (.inr (.inr rfl))) (stepProbe_link s ▸ sendWrite_link _ _ s)
  | ackOk => exact oneCall_of_hidRead rfl (recvAck_link s)
  | ackCmd => exact oneCall_of_hidRead rfl (stepAckCmd_link s)
  | probeAck => exact oneCall_of_hidRead rfl (recvAck_link s)
  | recvRead => exact oneCall_of_hidRead rfl (recvData_link s)
  | noData d => cases d <;> exact .inl rfl
  | shortData d => dsimp only [stepShortData]; split <;> exact .inl rfl
  | scanWhile => dsimp only [stepScanWhile]; split <;> exact .inl rfl
  | release => dsimp only [conclude]; split <;> exact .inl rfl

/-- Settles O60: line by line, the exchanges through what `sendWrite` and `recvAck` do to LINK. -/
theorem atMostOneCallPerStep : Obligations.AtMostOneCallPerStep := by
  intro s t stepped
  obtain ⟨-, -, rfl⟩ := seqStep_next stepped
  exact runLine_oneCall s

/-! ### The settle delay (R145, R147, R223) -/

theorem recvAck_acked {s : State} {r : List Byte} (got : s.link.nextRead s.params.lIn = .report r)
    (ack : r.head? = some 0x01) : recvAck s = (true, setIn r (answered s)) := by
  rw [recvAck_eq, got]
  simp only [parseAck_eq_head?, ack]
  rfl

theorem recvAck_not_acked {s : State}
    (no_ack : ¬ ∃ r, s.link.nextRead s.params.lIn = .report r ∧ r.head? = some 0x01) : (recvAck s).1 = false := by
  rw [recvAck_eq]
  cases got : s.link.nextRead s.params.lIn with
  | timeout => rfl
  | error => rfl
  | report r =>
    have wrong : parseAck r = false := by
      rw [parseAck_eq_head?]
      exact decide_eq_false fun ack => no_ack ⟨r, got, ack⟩
    simp only [wrong]
    rfl

theorem stepAckCmd_acked {s : State} {r : List Byte} (got : s.link.nextRead s.params.lIn = .report r)
    (ack : r.head? = some 0x01) : stepAckCmd s = goto .wait (startSettle (setIn r (answered s))) := by
  simp only [stepAckCmd, recvAck_acked got ack]

theorem stepAckCmd_not_acked {s : State}
    (no_ack : ¬ ∃ r, s.link.nextRead s.params.lIn = .report r ∧ r.head? = some 0x01) :
    stepAckCmd s = failed (recvAck s).2 := by
  have failed_ack := recvAck_not_acked no_ack
  unfold stepAckCmd
  generalize recvAck s = answer at failed_ack ⊢
  obtain ⟨_, t⟩ := answer
  obtain rfl := failed_ack
  rfl

theorem failed_raw {s : State} (readword : s.op = .readword) : (failed s).raw = none := by
  rw [failed, setNegative, readword]
  rfl

theorem failed_bytes {s : State} (blockread : s.op = .blockread) : (failed s).bytes = none := by
  rw [failed, setNegative, blockread]
  rfl

theorem readLen_of_readsData (o : Op) :
    readsData o = true → BitVec.ofNat 8 (readLen o) = if o = .readword then 2 else 33 := by
  cases o <;> decide

/-- Settles O50: the ack, the wait and the read report are three lines, and only the last calls HidWrite. -/
theorem settleComesBetween : Obligations.SettleComesBetween := by
  intro s reads
  have runs {l : Line} (at_line : s.line = l) (fits : ∀ o, readsData o = true → l.fits o = true)
      (in_phase : l.inPhase s.phase = true) : seqStep s = .next (runLine s) :=
    seqStep_runs (by rw [at_line]; exact fits s.op reads) (by rw [at_line]; exact in_phase)
  refine ⟨fun phase at_line => ?ack, fun phase at_line => ?wait, fun phase at_line => ?read⟩
  case ack =>
    have acks : runLine s = stepAckCmd s := by rw [runLine, at_line]
    have same_op : (recvAck s).2.op = s.op := congrArg Fixed.op (recvAck_onlyExchanges s).fixed
    refine ⟨stepAckCmd s, acks ▸ runs at_line (fun o => by cases o <;> decide) (by rw [phase]; rfl), stepAckCmd_link s,
      fun ⟨r, got, ack⟩ => ?_, fun no_ack => ?_⟩
    · rw [stepAckCmd_acked got ack]
      exact ⟨rfl, rfl, rfl⟩
    · rw [stepAckCmd_not_acked no_ack]
      exact ⟨rfl, rfl, fun readword => failed_raw (same_op.trans readword),
        fun blockread => failed_bytes (same_op.trans blockread)⟩
  case wait =>
    rw [runs at_line (fun o => by cases o <;> decide) (by rw [phase]; rfl), runLine, at_line]
    rfl
  case read =>
    have sends : runLine s = stepSendRead s := by rw [runLine, at_line]
    exact ⟨stepSendRead s, sends ▸ runs at_line (fun o => by cases o <;> decide) (by rw [phase]; rfl),
      (stepSendRead_link s).trans (by rw [readLen_of_readsData _ reads])⟩

end Sys2Proof.Machine
end

section
/-! The walk of a transport operation through its lines (43_transport_ops.md R149): which line, PHASE and SCAN_PTR come after which, and
that it comes to its end. -/

namespace Sys2Proof.Machine

/-! ### The arrows between the lines -/

/-- The lines an operation can end at, with `PHASE <- DONE`. -/
def mayEnd : Line → Bool
  | .idle | .latch _ | .clearCause | .setTimeout _ | .wait | .sendRead | .recvRead | .scanInit | .scanWhile | .probe | .probeAck
  | .advance | .release => false
  | .connectedTest | .whenConnected | .enumerate | .anyDevice _ | .openDev _ | .setConnected _ | .disconnect | .isconn | .sendOk
  | .ackOk | .sendCmd | .ackCmd | .noData _ | .shortData _ | .takeWord _ _ | .takeBytes _ | .scanEnd => true

/-- The arrows of R140 to R148: from a line, with OP, PHASE and SCAN_PTR as they stand there, to the next. -/
inductive Arrow (o : Op) (p : Phase) (n : Byte) : Line → Line → Phase → Byte → Prop
  | ended {l : Line} (may_end : mayEnd l = true) : Arrow o p n l .release .done n
  | latched (c : Call) : Arrow o p n (.latch c) .clearCause p n
  | cleared : Arrow o p n .clearCause .connectedTest p n
  | began : Arrow o p n .connectedTest (firstLine o) p n
  | toEnumerate : Arrow o p n .whenConnected .enumerate p n
  | enumerated (ds : List Nat) : Arrow o p n .enumerate (.anyDevice ds) p n
  | device (ds : List Nat) (d : Nat) : Arrow o p n (.anyDevice ds) (.openDev d) p n
  | opened (d : Nat) : Arrow o p n (.openDev d) (.setTimeout d) p n
  | timed (d : Nat) : Arrow o p n (.setTimeout d) (.setConnected d) p n
  | sentOk : Arrow o p n .sendOk .ackOk .wSent n
  | sentCmd : Arrow o p n .sendCmd .ackCmd .wSent n
  | acked : Arrow o p n .ackCmd .wait .settle n
  | waited : Arrow o p n .wait .sendRead p n
  | sentRead : Arrow o p n .sendRead .recvRead .rSent n
  | unsent : Arrow o p n .sendRead (gotData o none) p n
  | received (d : Option (List Byte)) : Arrow o p n .recvRead (gotData o d) p n
  | someData (d : List Byte) : Arrow o p n (.noData (some d)) (.shortData d) p n
  | enoughData (d : List Byte) (lo hi : Byte) : Arrow o p n (.shortData d) (.takeWord lo hi) p n
  | scanBegan : Arrow o p n .scanInit .scanWhile p 0x08
  | scanGoesOn (more : n.toNat ≤ 0x77) : Arrow o p n .scanWhile .probe p n
  | scanEnds : Arrow o p n .scanWhile .scanEnd p n
  | probed : Arrow o p n .probe .probeAck .wSent n
  | unprobed : Arrow o p n .probe .advance .scanNext n
  | noted : Arrow o p n .probeAck .advance .scanNext n
  | advanced : Arrow o p n .advance .scanWhile p (n + 1)

theorem sendWrite_phase (a : Addr) (pay : List Byte) (s : State) :
    (sendWrite a pay s).2.phase = if (sendWrite a pay s).1 then .wSent else s.phase := by
  rcases le_or_gt pay.length Config.maxPayload with fits | tooLong
  · cases handed : s.link.nextWrite
    case ok => rw [sendWrite_ok fits handed]; rfl
    case error => rw [sendWrite_error fits handed]; rfl
  · rw [sendWrite_tooLong tooLong]; rfl

theorem sendRead_phase (a : Addr) (n : Nat) (s : State) :
    (sendRead a n s).2.phase = if (sendRead a n s).1 then .rSent else s.phase := by
  rcases le_or_gt n Config.maxPayload with fits | tooLong
  · cases handed : s.link.nextWrite
    case ok => rw [sendRead_ok fits handed]; rfl
    case error => rw [sendRead_error fits handed]; rfl
  · rw [sendRead_tooLong tooLong]; rfl

theorem recvData_phase (s : State) : (recvData s).2.phase = s.phase := by
  rw [recvData_eq]
  cases s.link.nextRead s.params.lIn
  case timeout => rfl
  case error => rfl
  case report r => dsimp only; split <;> rfl

section
variable {o : Op} {p : Phase} {n : Byte} {l : Line}

theorem Arrow.finished {t : State} (may_end : mayEnd l = true) (same : t.scanPtr = n) :
    Arrow o p n l (finish t).line (finish t).phase (finish t).scanPtr := same ▸ .ended may_end

theorem Arrow.failed {t : State} (may_end : mayEnd l = true) (same : t.scanPtr = n) :
    Arrow o p n l (failed t).line (failed t).phase (failed t).scanPtr :=
  .finished may_end ((setNegative_scanPtr t).trans same)

/-- A line that only goes on: PHASE and SCAN_PTR are as the line left them. -/
theorem Arrow.goesTo {t : State} {l' : Line} {p' : Phase} {n' : Byte} (arrow : Arrow o p n l l' p' n') (phase : t.phase = p')
    (scanPtr : t.scanPtr = n') : Arrow o p n l (goto l' t).line (goto l' t).phase (goto l' t).scanPtr := by
  subst phase scanPtr
  exact arrow

end

section
variable (s : State) {o : Op} {l : Line}

theorem afterSend_arrow {next : Line} (a : Addr) (pay : List Byte) (may_end : mayEnd l = true)
    (taken : Arrow o s.phase s.scanPtr l next .wSent s.scanPtr) :
    Arrow o s.phase s.scanPtr l (afterSend next (sendWrite a pay s)).line (afterSend next (sendWrite a pay s)).phase
      (afterSend next (sendWrite a pay s)).scanPtr := by
  have same := (sendWrite_onlyExchanges a pay s).scanPtr
  have phase := sendWrite_phase a pay s
  generalize sendWrite a pay s = sent at same phase
  obtain ⟨_ | _, t⟩ := sent
  · exact .failed may_end same
  · exact taken.goesTo phase same

theorem stepAckCmd_arrow :
    Arrow o s.phase s.scanPtr .ackCmd (stepAckCmd s).line (stepAckCmd s).phase (stepAckCmd s).scanPtr := by
  have same := (recvAck_onlyExchanges s).scanPtr
  unfold stepAckCmd
  generalize recvAck s = answer at same
  obtain ⟨_ | _, t⟩ := answer
  · exact .failed rfl same
  · exact Arrow.acked.goesTo rfl same

theorem stepSendRead_arrow :
    Arrow s.op s.phase s.scanPtr .sendRead (stepSendRead s).line (stepSendRead s).phase (stepSendRead s).scanPtr := by
  have only := sendRead_onlyExchanges s.addr (readLen s.op) s
  have same := only.scanPtr
  have same_op : (sendRead s.addr (readLen s.op) s).2.op = s.op := congrArg Fixed.op only.fixed
  have phase := sendRead_phase s.addr (readLen s.op) s
  unfold stepSendRead
  generalize sendRead s.addr (readLen s.op) s = sent at same phase same_op
  obtain ⟨_ | _, t⟩ := sent
  · dsimp only at same_op ⊢
    rw [same_op]
    exact Arrow.unsent.goesTo phase same
  · exact Arrow.sentRead.goesTo phase same

theorem stepRecvRead_arrow :
    Arrow s.op s.phase s.scanPtr .recvRead (stepRecvRead s).line (stepRecvRead s).phase (stepRecvRead s).scanPtr := by
  have only := recvData_onlyExchanges s
  have same := only.scanPtr
  have same_op : (recvData s).2.op = s.op := congrArg Fixed.op only.fixed
  have phase := recvData_phase s
  unfold stepRecvRead
  generalize recvData s = answer at same phase same_op
  obtain ⟨d, t⟩ := answer
  dsimp only at same_op ⊢
  rw [same_op]
  exact (Arrow.received d).goesTo phase same

theorem stepProbe_arrow :
    Arrow o s.phase s.scanPtr .probe (stepProbe s).line (stepProbe s).phase (stepProbe s).scanPtr := by
  have same := (sendWrite_onlyExchanges (scanAddr s) [] s).scanPtr
  have phase := sendWrite_phase (scanAddr s) [] s
  unfold stepProbe
  generalize sendWrite (scanAddr s) [] s = sent at same phase
  obtain ⟨_ | _, t⟩ := sent
  · exact Arrow.unprobed.goesTo rfl same
  · exact Arrow.probed.goesTo phase same

/-- Every line but the release and the idle one moves along an arrow. -/
theorem runLine_arrow (busy : s.line ≠ .idle) (not_release : s.line ≠ .release) :
    Arrow s.op s.phase s.scanPtr s.line (runLine s).line (runLine s).phase (runLine s).scanPtr := by
  unfold runLine
  cases at_line : s.line with
  | idle => exact absurd at_line busy
  | release => exact absurd at_line not_release
  | latch c => cases c <;> exact .latched _
  | clearCause => exact .cleared
  | connectedTest => dsimp only [testConnected]; split; exacts [.failed rfl rfl, .began]
  | whenConnected =>
    dsimp only [whenConnected]
    split
    · split
      exacts [.ended rfl, .ended rfl, .toEnumerate]
    · exact .toEnumerate
  | enumerate => dsimp only [stepEnumerate]; split; exacts [.ended rfl, .enumerated _]
  | anyDevice ds => cases ds; exacts [.ended rfl, .device _ _]
  | openDev d => dsimp only [stepOpen]; split; exacts [.ended rfl, .opened d]
  | setTimeout d => exact .timed d
  | setConnected | takeWord | takeBytes | scanEnd => exact .ended rfl
  | disconnect => dsimp only [bodyDisconnect]; split <;> exact .ended rfl
  | isconn => dsimp only [bodyIsconn]; split <;> exact .ended rfl
  | sendOk => exact afterSend_arrow s _ _ rfl .sentOk
  | ackOk => exact .finished rfl (recvAck_onlyExchanges s).scanPtr
  | sendCmd => exact afterSend_arrow s _ _ rfl .sentCmd
  | ackCmd => exact stepAckCmd_arrow s
  | wait => exact .waited
  | sendRead => exact stepSendRead_arrow s
  | recvRead => exact stepRecvRead_arrow s
  | noData d => cases d; exacts [.ended rfl, .someData _]
  | shortData d => dsimp only [stepShortData]; split; exacts [.enoughData _ _ _, .ended rfl, .ended rfl]
  | scanInit => exact .scanBegan
  | scanWhile =>
    dsimp only [stepScanWhile]
    split
    case isTrue more => exact .scanGoesOn more
    case isFalse => exact .scanEnds
  | probe => exact stepProbe_arrow s
  | probeAck => exact Arrow.noted.goesTo rfl (recvAck_onlyExchanges s).scanPtr
  | advance => exact .advanced

end

/-! ### What the arrows keep -/

theorem not_mayEnd_of_idle {l : Line} (idle : l.inPhase .idle = true) : mayEnd l = false := by
  cases l with
  | idle => rfl
  | noData d | takeBytes d => cases d <;> cases idle
  | _ => cases idle

theorem not_mayEnd_of_done {l : Line} (done : l.inPhase .done = true) : mayEnd l = false := by
  cases l with
  | release => rfl
  | noData d | takeBytes d => cases d <;> cases done
  | _ => cases done

section
variable {o : Op} {p q : Phase} {n m : Byte} {l l' : Line} (arrow : Arrow o p n l l' q m)
include arrow

theorem Arrow.fits (fits : l.fits o = true) : l'.fits o = true := by
  cases arrow with
  | began => cases o <;> rfl
  | unsent => cases o <;> exact fits
  | received d => cases o <;> exact fits
  | ended | latched | cleared => rfl
  | _ => exact fits

theorem Arrow.inPhase (in_phase : l.inPhase p = true) : l'.inPhase q = true := by
  cases arrow with
  | began => cases o <;> exact in_phase
  | unsent =>
    obtain rfl : p = .settle := eq_of_beq in_phase
    cases o <;> rfl
  | received d =>
    obtain rfl : p = .rSent := eq_of_beq in_phase
    cases o <;> cases d <;> rfl
  | advanced =>
    obtain rfl : p = .scanNext := eq_of_beq in_phase
    rfl
  | scanBegan =>
    obtain rfl : p = .check := eq_of_beq in_phase
    rfl
  | ended | sentOk | sentCmd | acked | sentRead | probed | unprobed | noted => rfl
  | _ => exact in_phase

theorem Arrow.phaseArrow (in_phase : l.inPhase p = true) : Machine.phaseArrow p q = true := by
  cases arrow with
  | ended may_end =>
    cases p with
    | idle => cases (not_mayEnd_of_idle in_phase).symm.trans may_end
    | done => cases (not_mayEnd_of_done in_phase).symm.trans may_end
    | _ => rfl
  | _ =>
    revert in_phase
    cases p <;> simp [Line.inPhase, Machine.phaseArrow]

end

/-! ### One step of the SEQUENCER (R149) -/

theorem runLine_idle {s : State} (at_line : s.line = .idle) : runLine s = s := by rw [runLine, at_line]

theorem runLine_latch {s : State} {c : Call} (at_line : s.line = .latch c) :
    runLine s = goto .clearCause (latchOperands c s) := by rw [runLine, at_line]

theorem runLine_release {s : State} (at_line : s.line = .release) : runLine s = conclude (holder s) (release s) := by
  rw [runLine, at_line]

/-- The end of an operation gives its agent the result, or puts the next operation at the port, and no more. -/
theorem conclude_cases (h : Nat) (s : State) :
    (∃ c k, nextCall s.cont s = some (c, k) ∧ conclude h s = { s with port := ⟨h, .call c k⟩ :: s.port }) ∨
      (nextCall s.cont s = none ∧ conclude h s = deliver h (conclusion s.cont s) s) := by
  unfold conclude
  cases next : nextCall s.cont s with
  | none => exact .inr ⟨rfl, rfl⟩
  | some ck => exact .inl ⟨ck.1, ck.2, rfl, rfl⟩

theorem conclude_released {h : Nat} {s : State} :
    (conclude h (release s)).lock = .free ∧ (conclude h (release s)).phase = .idle := by
  obtain ⟨c, k, -, ended⟩ | ⟨-, ended⟩ := conclude_cases h (release s) <;> rw [ended] <;> exact ⟨rfl, rfl⟩

theorem conclude_operands {h : Nat} {s : State} :
    (conclude h (release s)).op = s.op ∧ (conclude h (release s)).addr = s.addr ∧ (conclude h (release s)).cmd = s.cmd ∧
      (conclude h (release s)).wdata = s.wdata := by
  obtain ⟨c, k, -, ended⟩ | ⟨-, ended⟩ := conclude_cases h (release s) <;> rw [ended] <;> exact ⟨rfl, rfl, rfl, rfl⟩

/-- Settles O49: the idle line does nothing, the release goes to IDLE, and every other line moves along an arrow of R149. -/
theorem phaseFollowsArrows : Obligations.PhaseFollowsArrows := by
  intro s t stepped
  obtain ⟨-, in_phase, rfl⟩ := seqStep_next stepped
  refine ⟨?arrow, fun not_latch => ?operands, fun not_done => ?lock⟩
  case arrow =>
    by_cases idle : s.line = .idle
    · rw [idle] at in_phase
      rw [runLine_idle idle, eq_of_beq (b := Phase.idle) in_phase]
      rfl
    by_cases release : s.line = .release
    · rw [release] at in_phase
      rw [runLine_release release, conclude_released.2, eq_of_beq (b := Phase.done) in_phase]
      rfl
    · exact (runLine_arrow s idle release).phaseArrow in_phase
  case operands =>
    by_cases release : s.line = .release
    · rw [runLine_release release]
      exact conclude_operands
    · have same := runLine_fixed not_latch release
      exact ⟨congrArg Fixed.op same, congrArg Fixed.addr same, congrArg Fixed.cmd same, congrArg Fixed.wdata same⟩
  case lock =>
    have not_release : s.line ≠ .release := fun release => by
      rw [release] at in_phase
      exact not_done (eq_of_beq in_phase)
    by_cases latch : ∃ c, s.line = .latch c
    · obtain ⟨c, latch⟩ := latch
      rw [runLine_latch latch]
      cases c <;> exact ⟨rfl, rfl, rfl⟩
    · have same := runLine_fixed (not_exists.mp latch) not_release
      exact ⟨congrArg Fixed.lock same, congrArg Fixed.delivered same, congrArg Fixed.port same⟩

/-! ### How far it is to the end (R149c) -/

/-- A probe's SCAN_PTR is one of the range (R18). -/
def scanBounded (n : Byte) : Line → Prop
  | .probe | .probeAck | .advance => n.toNat ≤ 0x77
  | .idle | .latch _ | .clearCause | .connectedTest | .whenConnected | .enumerate | .anyDevice _ | .openDev _ | .setTimeout _
  | .setConnected _ | .disconnect | .isconn | .sendOk | .ackOk | .sendCmd | .ackCmd | .wait | .sendRead | .recvRead | .noData _
  | .shortData _ | .takeWord _ _ | .takeBytes _ | .scanInit | .scanWhile | .scanEnd | .release => True

/-- The steps the SEQUENCER has to take at most from a line, with SCAN_PTR as it stands there: a scan has four for each address. -/
def stepsLeft (n : Byte) : Line → Nat
  | .idle => 0
  | .release => 1
  | .disconnect | .isconn | .setConnected _ | .ackOk | .takeWord _ _ | .takeBytes _ | .scanEnd => 2
  | .setTimeout _ | .sendOk | .shortData _ => 3
  | .openDev _ | .noData _ => 4
  | .anyDevice _ | .recvRead => 5
  | .enumerate | .sendRead => 6
  | .whenConnected | .wait => 7
  | .ackCmd => 8
  | .sendCmd => 9
  | .advance => 4 * (0x78 - n.toNat)
  | .probeAck => 4 * (0x78 - n.toNat) + 1
  | .probe => 4 * (0x78 - n.toNat) + 2
  | .scanWhile => 4 * (0x78 - n.toNat) + 3
  | .scanInit => 4 * Config.nScan + 4
  | .connectedTest => 4 * Config.nScan + 5
  | .clearCause => 4 * Config.nScan + 6
  | .latch _ => 4 * Config.nScan + 7

theorem stepsLeft_pos {n : Byte} {l : Line} (busy : l ≠ .idle) (bounded : scanBounded n l) : 0 < stepsLeft n l := by
  cases l with
  | idle => exact absurd rfl busy
  | advance =>
    have in_range : n.toNat ≤ 0x77 := bounded
    simp only [stepsLeft]
    omega
  | _ => exact Nat.succ_pos _

section
variable {o : Op} {p q : Phase} {n m : Byte} {l l' : Line} (arrow : Arrow o p n l l' q m)
include arrow

theorem Arrow.scanBounded (bounded : Machine.scanBounded n l) : Machine.scanBounded m l' := by
  cases arrow with
  | began | unsent | received => cases o <;> trivial
  | scanGoesOn more => exact more
  | probed | unprobed | noted => exact bounded
  | _ => trivial

theorem Arrow.stepsLeft_lt (bounded : Machine.scanBounded n l) : stepsLeft m l' < stepsLeft n l := by
  cases arrow with
  | ended may_end =>
    revert may_end
    cases l <;> simp [mayEnd, stepsLeft, Config.nScan]
  | began => cases o <;> simp [stepsLeft, firstLine, Config.nScan]
  | unsent | received => cases o <;> simp [stepsLeft, gotData]
  | scanBegan => simp [stepsLeft, Config.nScan]
  | advanced =>
    have in_range : n.toNat ≤ 0x77 := bounded
    have next : (n + 1).toNat = n.toNat + 1 := BitVec.toNat_add_of_lt (by simp; omega)
    simp only [stepsLeft, next]
    omega
  | _ => simp [stepsLeft]

end

end Sys2Proof.Machine
end

section
/-! The SEQUENCER's lines and the whole operation (43_transport_ops.md R36, R149): what is left to do at each line is the rest of the
operation's body, each line does its part of it, and so the walk ends where `operate` does. -/

namespace Sys2Proof.Machine

/-! ### The line alone changes nothing else -/

/-- `f` neither reads nor writes the line. -/
def CarriesLine {α : Type} (f : State → α × State) : Prop :=
  ∀ (l : Line) (s : State), f (goto l s) = Prod.map id (goto l) (f s)

theorem sendWrite_carriesLine (a : Addr) (pay : List Byte) : CarriesLine (sendWrite a pay) := by
  intro l s
  rcases le_or_gt pay.length Config.maxPayload with fits | tooLong
  · cases handed : s.link.nextWrite
    case ok => rw [sendWrite_ok fits handed]; exact sendWrite_ok fits handed
    case error => rw [sendWrite_error fits handed]; exact sendWrite_error fits handed
  · rw [sendWrite_tooLong tooLong, sendWrite_tooLong tooLong]; rfl

theorem sendRead_carriesLine (a : Addr) (n : Nat) : CarriesLine (sendRead a n) := by
  intro l s
  rcases le_or_gt n Config.maxPayload with fits | tooLong
  · cases handed : s.link.nextWrite
    case ok => rw [sendRead_ok fits handed]; exact sendRead_ok fits handed
    case error => rw [sendRead_error fits handed]; exact sendRead_error fits handed
  · rw [sendRead_tooLong tooLong, sendRead_tooLong tooLong]; rfl

theorem recvAck_carriesLine : CarriesLine recvAck := by
  intro l s
  rw [recvAck_eq, recvAck_eq]
  simp only [goto]
  cases s.link.nextRead s.params.lIn
  case timeout => rfl
  case error => rfl
  case report r => dsimp only; split <;> rfl

theorem recvData_carriesLine : CarriesLine recvData := by
  intro l s
  rw [recvData_eq, recvData_eq]
  simp only [goto]
  cases s.link.nextRead s.params.lIn
  case timeout => rfl
  case error => rfl
  case report r => dsimp only; split <;> rfl

theorem xwrite_carriesLine (a : Addr) (pay : List Byte) : CarriesLine (xwrite a pay) := by
  intro l s
  simp only [xwrite, sendWrite_carriesLine a pay l s]
  generalize sendWrite a pay s = sent
  obtain ⟨_ | _, t⟩ := sent
  · rfl
  · exact recvAck_carriesLine l t

theorem xread_carriesLine (a : Addr) (n : Nat) : CarriesLine (xread a n) := by
  intro l s
  simp only [xread, sendRead_carriesLine a n l s]
  generalize sendRead a n s = sent
  obtain ⟨_ | _, t⟩ := sent
  · rfl
  · exact recvData_carriesLine l t

theorem takeWord_goto (d : Option (List Byte)) (l : Line) (s : State) : takeWord d (goto l s) = goto l (takeWord d s) := by
  rw [takeWord_eq, takeWord_eq]
  rfl

theorem setNegative_goto (l : Line) (s : State) : setNegative (goto l s) = goto l (setNegative s) := by
  cases h : s.op <;> simp only [setNegative, goto, h]

theorem openFirst_goto (l : Line) (s : State) : openFirst (goto l s) = goto l (openFirst s) := by
  rw [openFirst_eq, openFirst_eq]
  simp only [goto]
  obtain ⟨_ | d, k⟩ := connectLink s.params s.link <;> rfl

theorem scanTurn_goto (l : Line) (s : State) : scanTurn (goto l s) = goto l (scanTurn s) := by
  have probed := xwrite_carriesLine (scanAddr s) [] l s
  have same_address : scanAddr (goto l s) = scanAddr s := rfl
  simp only [scanTurn, same_address, probed]
  rfl

theorem scanLoop_goto (n : Nat) (l : Line) (s : State) : scanLoop n (goto l s) = goto l (scanLoop n s) := by
  induction n generalizing s with
  | zero => rfl
  | succ n ih =>
    have same_pointer : (goto l s).scanPtr = s.scanPtr := rfl
    simp only [scanLoop, same_pointer, scanTurn_goto, ih]
    split <;> rfl

/-! ### The rest of a body from its later lines -/

/-- SENDBYTE and WRITEWORD from the response on (R144, R146). -/
def restOfAckOk (s : State) : State := { (recvAck s).2 with ok := (recvAck s).1 }

/-- READWORD and BLOCKREAD from what XREAD has returned (R145, R147). -/
def restOfData (o : Op) (d : Option (List Byte)) (s : State) : State :=
  if o = .blockread then { s with bytes := d } else takeWord d s

/-- READWORD and BLOCKREAD from the read report on (R145, R147). -/
def restOfRead (o : Op) (s : State) : State :=
  match xread s.addr (readLen o) s with
  | (d, t) => restOfData o d t

/-- READWORD and BLOCKREAD from the response to their write phase on (R145, R147). -/
def restOfAck (s : State) : State :=
  match recvAck s with
  | (true, t) => restOfRead s.op (endSettle (startSettle t))
  | (false, t) => setNegative t

/-- CONNECT from the first device on (R141). -/
def restOfOpen (d : Nat) (s : State) : State :=
  match s.link.nextOpen with
  | .error => connectFailed (callOpen d s)
  | .ok => setConnected d (callSetTimeout (callOpen d s))

/-- CONNECT from the list of devices on (R141). -/
def restOfDevices (ds : List Nat) (s : State) : State :=
  match ds with
  | [] => connectFailed s
  | d :: _ => restOfOpen d s

/-- SCAN from the test of its loop on (R148). -/
def restOfScan (s : State) : State := { scanLoop (0x78 - s.scanPtr.toNat) s with cause := .none }

/-- SCAN from the response to a probe on (R148). -/
def restOfProbeAck (s : State) : State := restOfScan (advanceScan (noteProbe (recvAck s).1 (recvAck s).2))

theorem restOfAckOk_goto (l : Line) (s : State) : restOfAckOk (goto l s) = goto l (restOfAckOk s) := by
  rw [restOfAckOk, recvAck_carriesLine]
  rfl

theorem restOfData_goto (o : Op) (d : Option (List Byte)) (l : Line) (s : State) :
    restOfData o d (goto l s) = goto l (restOfData o d s) := by
  simp only [restOfData, takeWord_goto]
  split <;> rfl

theorem restOfRead_goto (o : Op) (l : Line) (s : State) : restOfRead o (goto l s) = goto l (restOfRead o s) := by
  have read := xread_carriesLine s.addr (readLen o) l s
  have same_address : (goto l s).addr = s.addr := rfl
  simp only [restOfRead, same_address, read]
  exact restOfData_goto o _ l _

theorem restOfAck_goto (l : Line) (s : State) : restOfAck (goto l s) = goto l (restOfAck s) := by
  have same_op : (goto l s).op = s.op := rfl
  simp only [restOfAck, same_op, recvAck_carriesLine l s]
  generalize recvAck s = answer
  obtain ⟨_ | _, t⟩ := answer
  · exact setNegative_goto l t
  · exact restOfRead_goto s.op l (endSettle (startSettle t))

theorem restOfOpen_goto (d : Nat) (l : Line) (s : State) : restOfOpen d (goto l s) = goto l (restOfOpen d s) := by
  have same_link : (goto l s).link = s.link := rfl
  simp only [restOfOpen, same_link]
  split <;> rfl

theorem restOfDevices_goto (ds : List Nat) (l : Line) (s : State) : restOfDevices ds (goto l s) = goto l (restOfDevices ds s) := by
  cases ds with
  | nil => rfl
  | cons d ds => exact restOfOpen_goto d l s

theorem restOfScan_goto (l : Line) (s : State) : restOfScan (goto l s) = goto l (restOfScan s) := by
  have same_pointer : (goto l s).scanPtr = s.scanPtr := rfl
  simp only [restOfScan, same_pointer, scanLoop_goto]
  rfl

theorem restOfProbeAck_goto (l : Line) (s : State) : restOfProbeAck (goto l s) = goto l (restOfProbeAck s) := by
  rw [restOfProbeAck, recvAck_carriesLine]
  exact restOfScan_goto l (advanceScan (noteProbe (recvAck s).1 (recvAck s).2))

/-- CONNECT is its enumeration, then the rest. -/
theorem openFirst_eq_rest (s : State) :
    openFirst s =
      match s.link.nextEnum with
      | .error => connectFailed (callEnumerate s)
      | .devices ds => restOfDevices ds (callEnumerate s) := by
  unfold openFirst
  cases s.link.nextEnum with
  | error => rfl
  | devices ds => cases ds <;> rfl

section
variable {s : State}

theorem setNegative_of_readword (op : s.op = .readword) : setNegative s = { s with raw := none } := by rw [setNegative, op]

theorem setNegative_of_blockread (op : s.op = .blockread) : setNegative s = { s with bytes := none } := by rw [setNegative, op]

theorem restOfAck_of_readword (op : s.op = .readword) :
    restOfAck s =
      match recvAck s with
      | (false, t) => { t with raw := none }
      | (true, t) =>
        match xread t.addr Config.wordReadLen (endSettle (startSettle t)) with
        | (d, u) => takeWord d u := by
  have received := (recvAck_onlyExchanges s).fixed
  simp only [restOfAck, op]
  generalize recvAck s = answer at received
  obtain ⟨_ | _, t⟩ := answer
  · exact setNegative_of_readword ((congrArg Fixed.op received).trans op)
  · rfl

theorem restOfAck_of_blockread (op : s.op = .blockread) :
    restOfAck s =
      match recvAck s with
      | (false, t) => { t with bytes := none }
      | (true, t) =>
        match xread t.addr Config.blockReadLen (endSettle (startSettle t)) with
        | (d, u) => { u with bytes := d } := by
  have received := (recvAck_onlyExchanges s).fixed
  simp only [restOfAck, op]
  generalize recvAck s = answer at received
  obtain ⟨_ | _, t⟩ := answer
  · exact setNegative_of_blockread ((congrArg Fixed.op received).trans op)
  · rfl

/-- READWORD and BLOCKREAD are their write report, then the rest. -/
theorem bodyOf_read (reads : readsData s.op = true) :
    bodyOf s.op s =
      match sendWrite s.addr [s.cmd] s with
      | (true, t) => restOfAck t
      | (false, t) => setNegative t := by
  have sent := (sendWrite_onlyExchanges s.addr [s.cmd] s).fixed
  cases op : s.op with
  | readword =>
    simp only [bodyOf, bodyReadword, xwrite]
    generalize sendWrite s.addr [s.cmd] s = result at sent
    obtain ⟨_ | _, t⟩ := result
    · exact (setNegative_of_readword ((congrArg Fixed.op sent).trans op)).symm
    · exact (restOfAck_of_readword ((congrArg Fixed.op sent).trans op)).symm
  | blockread =>
    simp only [bodyOf, bodyBlockread, xwrite]
    generalize sendWrite s.addr [s.cmd] s = result at sent
    obtain ⟨_ | _, t⟩ := result
    · exact (setNegative_of_blockread ((congrArg Fixed.op sent).trans op)).symm
    · exact (restOfAck_of_blockread ((congrArg Fixed.op sent).trans op)).symm
  | _ => rw [op] at reads; cases reads

/-- SENDBYTE and WRITEWORD are one exchange whose ack is their result. -/
theorem bodyOf_ok (one : s.op = .sendbyte ∨ s.op = .writeword) :
    bodyOf s.op s =
      match sendWrite s.addr (okPayload s) s with
      | (true, t) => restOfAckOk t
      | (false, t) => setNegative t := by
  have sent := (sendWrite_onlyExchanges s.addr (okPayload s) s).fixed
  have negative {t : State} (op : t.op = .sendbyte ∨ t.op = .writeword) : setNegative t = { t with ok := false } := by
    rcases op with op | op <;> rw [setNegative, op]
  have body : bodyOf s.op s = { (xwrite s.addr (okPayload s) s).2 with ok := (xwrite s.addr (okPayload s) s).1 } := by
    rcases one with op | op <;> simp only [op, bodyOf, okPayload] <;> rfl
  rw [body, xwrite]
  generalize sendWrite s.addr (okPayload s) s = result at sent
  obtain ⟨_ | _, t⟩ := result
  · have same_op : t.op = s.op := congrArg Fixed.op sent
    exact (negative (by rwa [same_op])).symm
  · rfl

/-- A turn of SCAN's loop, then the rest. -/
theorem restOfScan_turn (in_range : s.scanPtr.toNat ≤ 0x77) : restOfScan s = restOfScan (scanTurn s) := by
  have pointer : (scanTurn s).scanPtr = s.scanPtr + 1 := by
    obtain ⟨_, _, _, _, _, _, turned⟩ := scanTurn_eq s
    rw [turned]
    rfl
  have next : (s.scanPtr + 1).toNat = s.scanPtr.toNat + 1 := BitVec.toNat_add_of_lt (by simp; omega)
  have count : 0x78 - s.scanPtr.toNat = 0x78 - (scanTurn s).scanPtr.toNat + 1 := by
    rw [pointer, next]
    omega
  have turned : scanLoop (0x78 - s.scanPtr.toNat) s = scanLoop (0x78 - (scanTurn s).scanPtr.toNat) (scanTurn s) := by
    rw [count, scanLoop]
    exact if_pos in_range
  rw [restOfScan, turned]
  rfl

theorem restOfScan_end (ended : ¬ s.scanPtr.toNat ≤ 0x77) : restOfScan s = { s with cause := .none } := by
  have none_left : 0x78 - s.scanPtr.toNat = 0 := by omega
  rw [restOfScan, none_left]
  rfl

/-- A turn is a probe, its response, and SCAN_PTR moved on. -/
theorem scanTurn_eq_rest :
    scanTurn s =
      match sendWrite (scanAddr s) [] s with
      | (true, t) => advanceScan (noteProbe (recvAck t).1 (recvAck t).2)
      | (false, t) => advanceScan (noteProbe false t) := by
  rw [scanTurn, xwrite]
  generalize sendWrite (scanAddr s) [] s = sent
  obtain ⟨_ | _, t⟩ := sent <;> rfl

end

/-! ### What is left to do at a line -/

/-- The state that the operation in progress comes to at its release, if nobody else acts: the rest of its body, run from its line. -/
def completed (s : State) : State :=
  match s.line with
  | .idle | .release => s
  | .latch c => runBody (goto .connectedTest { latchOperands c s with cause := .none })
  | .clearCause => runBody (goto .connectedTest { s with cause := .none })
  | .connectedTest => runBody s
  | .whenConnected | .disconnect | .isconn | .sendOk | .sendCmd | .scanInit => finish (bodyOf s.op (goto .connectedTest s))
  | .enumerate => finish (openFirst s)
  | .anyDevice ds => finish (restOfDevices ds s)
  | .openDev d => finish (restOfOpen d s)
  | .setTimeout d => finish (setConnected d (callSetTimeout s))
  | .setConnected d => finish (setConnected d s)
  | .ackOk => finish (restOfAckOk s)
  | .ackCmd => finish (restOfAck s)
  | .wait => finish (restOfRead s.op (endSettle s))
  | .sendRead => finish (restOfRead s.op s)
  | .recvRead => finish (restOfData s.op (recvData s).1 (recvData s).2)
  | .noData d => finish (takeWord d s)
  | .shortData d => finish (takeWord (some d) s)
  | .takeWord lo hi => finish { s with raw := some (word16 lo hi) }
  | .takeBytes d => finish { s with bytes := d }
  | .scanWhile | .probe => finish (restOfScan s)
  | .probeAck => finish (restOfProbeAck s)
  | .advance => finish (restOfScan (advanceScan s))
  | .scanEnd => finish { s with cause := .none }

section
variable {s : State}

theorem goto_of_line {l : Line} (at_line : s.line = l) : goto l s = s := by
  obtain rfl := at_line
  rfl

/-- At the end of an operation the line no longer matters. -/
theorem finish_carried {f : State → State} (carries : ∀ l s, f (goto l s) = goto l (f s)) (l : Line) (s : State) :
    finish (f (goto l s)) = finish (f s) := by
  rw [carries]
  rfl

theorem completed_gotData (o : Op) (d : Option (List Byte)) (t : State) :
    completed (goto (gotData o d) t) = finish (restOfData o d t) := by
  unfold gotData restOfData
  split
  · rfl
  · exact finish_carried (takeWord_goto d) _ t

/-- The connected test passed, the body is what is left. -/
theorem completed_testConnected (at_line : s.line = .connectedTest) : completed (testConnected s) = runBody s := by
  unfold testConnected runBody
  split
  · rfl
  · have first : completed (goto (firstLine s.op) s) = finish (bodyOf s.op (goto .connectedTest s)) := by
      cases op : s.op <;> rw [firstLine, completed] <;> simp only [goto, op]
    rw [first, goto_of_line at_line]

theorem completed_whenConnected : completed (whenConnected s) = finish (bodyConnect (goto .connectedTest s)) := by
  have same : (goto .connectedTest s).connected = s.connected ∧ (goto .connectedTest s).params = s.params := ⟨rfl, rfl⟩
  have opens (t : State) : finish (openFirst (goto .enumerate t)) = finish (openFirst (goto .connectedTest t)) :=
    (finish_carried openFirst_goto _ t).trans (finish_carried openFirst_goto _ t).symm
  simp only [whenConnected, bodyConnect, same]
  split
  · cases s.params.reconnect with
    | refuse => rfl
    | noopTrue => rfl
    | reopen => exact opens (closeHandle s)
  · exact opens s

theorem completed_sendOk (one : s.op = .sendbyte ∨ s.op = .writeword) :
    completed (afterSend .ackOk (sendWrite s.addr (okPayload s) s)) = finish (bodyOf s.op (goto .connectedTest s)) := by
  have body := bodyOf_ok (s := goto .connectedTest s) one
  have carried := sendWrite_carriesLine s.addr (okPayload s) .connectedTest s
  refine Eq.trans ?_ (congrArg finish body).symm
  change _ = finish (match sendWrite s.addr (okPayload s) (goto .connectedTest s) with
      | (true, t) => restOfAckOk t
      | (false, t) => setNegative t)
  rw [carried]
  generalize sendWrite s.addr (okPayload s) s = sent
  obtain ⟨_ | _, t⟩ := sent
  · exact (finish_carried setNegative_goto _ t).symm
  · exact (finish_carried restOfAckOk_goto _ t).trans (finish_carried restOfAckOk_goto _ t).symm

theorem completed_sendCmd (reads : readsData s.op = true) :
    completed (afterSend .ackCmd (sendWrite s.addr [s.cmd] s)) = finish (bodyOf s.op (goto .connectedTest s)) := by
  have body := bodyOf_read (s := goto .connectedTest s) reads
  have carried := sendWrite_carriesLine s.addr [s.cmd] .connectedTest s
  refine Eq.trans ?_ (congrArg finish body).symm
  change _ = finish (match sendWrite s.addr [s.cmd] (goto .connectedTest s) with
      | (true, t) => restOfAck t
      | (false, t) => setNegative t)
  rw [carried]
  generalize sendWrite s.addr [s.cmd] s = sent
  obtain ⟨_ | _, t⟩ := sent
  · exact (finish_carried setNegative_goto _ t).symm
  · exact (finish_carried restOfAck_goto _ t).trans (finish_carried restOfAck_goto _ t).symm

theorem completed_stepAckCmd : completed (stepAckCmd s) = finish (restOfAck s) := by
  have received := (recvAck_onlyExchanges s).fixed
  unfold stepAckCmd restOfAck
  generalize recvAck s = answer at received
  obtain ⟨_ | _, t⟩ := answer
  · rfl
  · have same_op : t.op = s.op := congrArg Fixed.op received
    rw [← same_op]
    exact finish_carried (restOfRead_goto t.op) _ (endSettle (startSettle t))

theorem completed_stepSendRead : completed (stepSendRead s) = finish (restOfRead s.op s) := by
  have sent := (sendRead_onlyExchanges s.addr (readLen s.op) s).fixed
  unfold stepSendRead restOfRead xread
  generalize sendRead s.addr (readLen s.op) s = result at sent
  obtain ⟨_ | _, t⟩ := result
  · have same_op : t.op = s.op := congrArg Fixed.op sent
    rw [← same_op]
    exact completed_gotData t.op none t
  · have same_op : t.op = s.op := congrArg Fixed.op sent
    rw [← same_op]
    change finish (restOfData t.op (recvData (goto .recvRead t)).1 (recvData (goto .recvRead t)).2) = _
    rw [recvData_carriesLine]
    exact finish_carried (restOfData_goto t.op (recvData t).1) _ (recvData t).2

theorem completed_stepRecvRead : completed (stepRecvRead s) = finish (restOfData s.op (recvData s).1 (recvData s).2) := by
  have same_op : (recvData s).2.op = s.op := congrArg Fixed.op (recvData_onlyExchanges s).fixed
  rw [← same_op]
  exact completed_gotData _ _ _

theorem completed_stepProbe (in_range : s.scanPtr.toNat ≤ 0x77) : completed (stepProbe s) = finish (restOfScan s) := by
  rw [restOfScan_turn in_range, scanTurn_eq_rest]
  unfold stepProbe
  generalize sendWrite (scanAddr s) [] s = sent
  obtain ⟨_ | _, t⟩ := sent
  · exact finish_carried restOfScan_goto _ (advanceScan (noteProbe false t))
  · exact finish_carried restOfProbeAck_goto _ t

theorem completed_scanWhile : completed (stepScanWhile s) = finish (restOfScan s) := by
  unfold stepScanWhile
  split
  case isTrue => exact finish_carried restOfScan_goto _ s
  case isFalse ended =>
    rw [restOfScan_end ended]
    rfl

theorem completed_scanInit : completed (goto .scanWhile (startScan s)) = finish (bodyScan (goto .connectedTest s)) := by
  have all_left : 0x78 - (startScan s).scanPtr.toNat = Config.nScan := rfl
  have scan : restOfScan (startScan s) = bodyScan s := by rw [restOfScan, all_left, bodyScan]
  have carried : finish (bodyScan (goto .connectedTest s)) = finish (bodyScan s) := by
    rw [← scan]
    exact finish_carried restOfScan_goto _ (startScan s)
  rw [carried, ← scan]
  exact finish_carried restOfScan_goto _ (startScan s)

/-- Each line does its part of what is left to do. -/
theorem completed_runLine (fits : s.line.fits s.op = true) (bounded : scanBounded s.scanPtr s.line)
    (not_release : s.line ≠ .release) : completed (runLine s) = completed s := by
  have one_op {o : Op} (op : (s.op == o) = true) : s.op = o := eq_of_beq op
  have two_ops {o o' : Op} (op : (s.op == o || s.op == o') = true) : s.op = o ∨ s.op = o' := by
    rwa [Bool.or_eq_true, beq_iff_eq, beq_iff_eq] at op
  conv_rhs => unfold completed
  conv_lhs => arg 1; unfold runLine
  cases at_line : s.line with
  | idle => exact (by rw [completed, at_line] : completed s = s)
  | release => exact absurd at_line not_release
  | latch c => cases c <;> rfl
  | clearCause | setTimeout | setConnected | ackOk | takeWord | takeBytes | scanEnd => rfl
  | connectedTest => exact completed_testConnected at_line
  | whenConnected =>
    rw [at_line] at fits
    rw [one_op fits]
    exact completed_whenConnected
  | enumerate =>
    dsimp only [stepEnumerate]
    rw [openFirst_eq_rest]
    cases s.link.nextEnum with
    | error => rfl
    | devices ds => exact finish_carried (restOfDevices_goto ds) _ (callEnumerate s)
  | anyDevice ds => cases ds; exacts [rfl, finish_carried (restOfOpen_goto _) _ s]
  | openDev d => dsimp only [stepOpen, restOfOpen]; cases s.link.nextOpen <;> rfl
  | disconnect =>
    rw [at_line] at fits
    rw [one_op fits]
    have same_handle : (goto .connectedTest s).connected = s.connected := rfl
    dsimp only [bodyOf, bodyDisconnect]
    rw [same_handle]
    split <;> rfl
  | isconn =>
    rw [at_line] at fits
    rw [one_op fits]
    have same_handle : (goto .connectedTest s).connected = s.connected := rfl
    dsimp only [bodyOf, bodyIsconn]
    rw [same_handle]
    split <;> rfl
  | sendOk =>
    rw [at_line] at fits
    exact completed_sendOk (two_ops fits)
  | sendCmd =>
    rw [at_line] at fits
    exact completed_sendCmd (by rcases two_ops fits with op | op <;> rw [op] <;> rfl)
  | ackCmd => exact completed_stepAckCmd
  | wait => exact finish_carried (restOfRead_goto s.op) _ (endSettle s)
  | sendRead => exact completed_stepSendRead
  | recvRead => exact completed_stepRecvRead
  | noData d => cases d; exacts [rfl, finish_carried (takeWord_goto _) _ s]
  | shortData d => dsimp only [stepShortData]; split <;> rfl
  | scanInit =>
    rw [at_line] at fits
    rw [one_op fits]
    exact completed_scanInit
  | scanWhile => exact completed_scanWhile
  | probe =>
    rw [at_line] at bounded
    exact completed_stepProbe bounded
  | probeAck => exact finish_carried restOfScan_goto _ (advanceScan (noteProbe (recvAck s).1 (recvAck s).2))
  | advance => exact finish_carried restOfScan_goto _ (advanceScan s)

end

end Sys2Proof.Machine
end

section
/-! The walk to the end (43_transport_ops.md R149c, R151): an operation in progress, left alone, comes to where the whole operation does,
within `longestRun` steps and with no fault. -/

namespace Sys2Proof.Machine

/-! ### An operation in progress -/

/-- The line is one of the operation and of PHASE, and a probe's SCAN_PTR is in range: what a step of the SEQUENCER needs. -/
structure Running (s : State) : Prop where
  fits : s.line.fits s.op = true
  in_phase : s.line.inPhase s.phase = true
  bounded : scanBounded s.scanPtr s.line

theorem Inv.running {s : State} (inv : Inv s) : Running s where
  fits := inv.line_op
  in_phase := inv.line_phase
  bounded := by
    cases at_line : s.line with
    | probe => exact (inv.scan_probe (.inl at_line)).2.1
    | probeAck => exact (inv.scan_probe (.inr at_line)).2.1
    | advance => exact (inv.scan_advance at_line).2.1
    | _ => trivial

theorem running_takeLock (c : Call) (k : Cont) (s : State) : Running (takeLock c k s) := ⟨rfl, rfl, trivial⟩

theorem line_of_idle {l : Line} (idle : l.inPhase .idle = true) : l = .idle := by
  cases l with
  | idle => rfl
  | noData d | takeBytes d => cases d <;> cases idle
  | _ => cases idle

theorem Arrow.not_idle {o : Op} {p q : Phase} {n m : Byte} {l l' : Line} (arrow : Arrow o p n l l' q m) : l' ≠ .idle := by
  cases arrow with
  | began | unsent | received => cases o <;> nofun
  | _ => nofun

section
variable {s : State} (running : Running s)
include running

theorem Running.seqStep_eq : seqStep s = .next (runLine s) := seqStep_runs running.fits running.in_phase

theorem Running.not_idle (busy : s.phase ≠ .idle) : s.line ≠ .idle := fun at_line => by
  have in_phase := running.in_phase
  rw [at_line] at in_phase
  exact busy (eq_of_beq in_phase)

theorem Running.step (busy : s.line ≠ .idle) (not_release : s.line ≠ .release) :
    Running (runLine s) ∧ (runLine s).phase ≠ .idle ∧
      stepsLeft (runLine s).scanPtr (runLine s).line < stepsLeft s.scanPtr s.line := by
  have arrow := runLine_arrow s busy not_release
  have in_phase := arrow.inPhase running.in_phase
  refine ⟨⟨?fits, in_phase, arrow.scanBounded running.bounded⟩, fun idle => ?_, arrow.stepsLeft_lt running.bounded⟩
  case fits =>
    by_cases latch : ∃ c, s.line = .latch c
    · obtain ⟨c, latch⟩ := latch
      rw [runLine_latch latch]
      rfl
    · have same_op : (runLine s).op = s.op := congrArg Fixed.op (runLine_fixed (not_exists.mp latch) not_release)
      rw [same_op]
      exact arrow.fits running.fits
  · rw [idle] at in_phase
    exact arrow.not_idle (line_of_idle in_phase)

end

/-- The agent the result goes to is the same until the release. -/
theorem holder_runLine {s : State} (not_release : s.line ≠ .release) : holder (runLine s) = holder s := by
  have same : (runLine s).lock = s.lock ∧ (runLine s).issuer = s.issuer := by
    by_cases latch : ∃ c, s.line = .latch c
    · obtain ⟨c, latch⟩ := latch
      rw [runLine_latch latch]
      cases c <;> exact ⟨rfl, rfl⟩
    · have fixed := runLine_fixed (not_exists.mp latch) not_release
      exact ⟨congrArg Fixed.lock fixed, congrArg Fixed.issuer fixed⟩
  rw [holder, same.1, same.2, holder]

/-- An operation in progress, left alone, comes to its release with its body run to the end. -/
theorem runToIdle_running {n : Nat} {s : State} (running : Running s) (busy : s.phase ≠ .idle)
    (enough : stepsLeft s.scanPtr s.line ≤ n) :
    runToIdle n s = .next (conclude (holder s) (release (completed s))) := by
  induction n generalizing s with
  | zero => exact absurd enough (Nat.not_le.mpr (stepsLeft_pos (running.not_idle busy) running.bounded))
  | succ n ih =>
    rw [runToIdle_step busy running.seqStep_eq]
    by_cases at_release : s.line = .release
    · have nothing_left : completed s = s := by rw [completed, at_release]
      rw [runLine_release at_release, runToIdle_idle conclude_released.2, nothing_left]
    · obtain ⟨running', busy', fewer⟩ := running.step (running.not_idle busy) at_release
      rw [ih running' busy' (by omega), holder_runLine at_release, completed_runLine running.fits running.bounded at_release]

/-- `longestRun` is enough from any line: a scan's SCAN_PTR is not below 0x08 (R18). -/
theorem Inv.stepsLeft_le {s : State} (inv : Inv s) : stepsLeft s.scanPtr s.line ≤ longestRun := by
  cases at_line : s.line with
  | scanWhile =>
    have from_lo := (inv.scan_while at_line).1
    simp only [stepsLeft, longestRun, Config.nScan]
    omega
  | probe =>
    have from_lo := (inv.scan_probe (.inl at_line)).1
    simp only [stepsLeft, longestRun, Config.nScan]
    omega
  | probeAck =>
    have from_lo := (inv.scan_probe (.inr at_line)).1
    simp only [stepsLeft, longestRun, Config.nScan]
    omega
  | advance =>
    have from_lo := (inv.scan_advance at_line).1
    simp only [stepsLeft, longestRun, Config.nScan]
    omega
  | _ => simp [stepsLeft, longestRun, Config.nScan]

theorem Inv.runs_to_idle {s : State} (inv : Inv s) (busy : s.phase ≠ .idle) :
    runToIdle longestRun s = .next (conclude (holder s) (release (completed s))) :=
  runToIdle_running inv.running busy inv.stepsLeft_le

/-- Settles O52: the walk comes to the release, which frees the lock. -/
theorem operationEnds : Obligations.OperationEnds := fun _ inv busy =>
  ⟨_, inv.runs_to_idle busy, conclude_released.2, conclude_released.1⟩

/-! ### No step faults (log 32) -/

theorem runCall_ne_fault (c : Call) (k : Cont) (s : State) (f : Fault) : runCall c k s ≠ .fault f := by
  unfold runCall
  split
  · nofun
  · split
    · nofun
    · split <;> nofun

theorem exec_ne_fault (i : Instr) (s : State) (f : Fault) : exec i s ≠ .fault f := by
  cases planned : plan i with
  | codec =>
    obtain ⟨g, function⟩ := exists_codecFunction planned
    rw [function.exec_eq]
    cases g s.params s.draws <;> nofun
  | framer =>
    rcases ne_or_eq s.lock .free with held | free
    · rw [exec_framer_held planned held]
      nofun
    · obtain ⟨t, ran, -⟩ := exec_framer_free free planned
      rw [ran]
      nofun
  | call c k =>
    rw [exec_of_plan_call planned]
    exact runCall_ne_fault c k s f
  | limitWrite a c v =>
    rw [exec_of_plan_limitWrite planned]
    unfold wrLimit
    split
    · nofun
    · split
      · nofun
      · split
        · exact runCall_ne_fault _ _ _ f
        · nofun
        · nofun

theorem beginCall_ne_fault (c : Call) (k : Cont) (s : State) (f : Fault) : beginCall c k s ≠ .fault f := by
  unfold beginCall
  split
  · nofun
  · split <;> nofun

theorem issue_ne_fault (i : Instr) (s : State) (f : Fault) : issue i s ≠ .fault f := by
  unfold issue
  split
  · exact exec_ne_fault i s f
  · exact exec_ne_fault i s f
  · exact beginCall_ne_fault _ _ s f
  · unfold beginLimitWrite
    split
    · nofun
    · split
      · exact beginCall_ne_fault _ _ _ f
      · nofun
      · nofun

theorem hostTurn_ne_fault (h : Nat) (s : State) (f : Fault) : hostTurn h s ≠ .fault f := by
  rcases hostTurn_cases h s with waits | ⟨e, rejected⟩ | ⟨c, k, rest, -, begins⟩ | ⟨i, rest, -, issues⟩
  · rw [waits]; nofun
  · rw [rejected]; nofun
  · rw [begins]; exact beginCall_ne_fault _ _ _ f
  · rw [issues]; exact issue_ne_fault _ _ f

/-- All that serving a request can come to: nothing, a rejected request, a call or an instruction run. -/
theorem serve_cases (p : Pending) (rest : List Pending) (s : State) :
    serve p rest s = .next s ∨ (∃ e, serve p rest s = .refused e) ∨
      (∃ c k, serve p rest s = runCall c k { s with port := rest, issuer := p.agent }) ∨
      ∃ i, serve p rest s = exec i { s with port := rest, issuer := p.agent } := by
  unfold serve
  split
  · exact .inl rfl
  split
  case h_1 c k _ =>
    rcases ne_or_eq s.lock .free with held | free
    · exact .inl (if_pos held)
    · exact .inr (.inr (.inl ⟨c, k, if_neg (not_not.mpr free)⟩))
  split
  · exact .inr (.inl ⟨_, rfl⟩)
  case h_2 i _ =>
    cases mustWait i s with
    | true => exact .inl rfl
    | false => exact .inr (.inr (.inr ⟨i, rfl⟩))

theorem serve_ne_fault (p : Pending) (rest : List Pending) (s : State) (f : Fault) : serve p rest s ≠ .fault f := by
  rcases serve_cases p rest s with waits | ⟨e, rejected⟩ | ⟨c, k, called⟩ | ⟨i, executed⟩
  · rw [waits]; nofun
  · rw [rejected]; nofun
  · rw [called]; exact runCall_ne_fault _ _ _ f
  · rw [executed]; exact exec_ne_fault _ _ f

/-- With no turn given, an operation in progress runs on to its end. -/
theorem step_in_progress {s : State} (no_turns : s.turns = []) (busy : s.phase ≠ .idle) :
    step s = runToIdle longestRun s := by
  simp only [step, nextStep, no_turns, stepAlone, if_pos busy]

/-- Settles O55: only a step of the SEQUENCER can fault, and with the invariant its line is there to be taken. -/
theorem noFaultWithInvariant : Obligations.NoFaultWithInvariant := by
  intro s f inv
  cases turns : s.turns with
  | nil =>
    by_cases idle : s.phase = .idle
    · cases port : s.port with
      | nil => rw [step_waits_in_idle turns idle port]; nofun
      | cons p rest => rw [step_takes_request turns idle port]; exact serve_ne_fault p rest s f
    · rw [step_in_progress turns idle, inv.runs_to_idle idle]
      nofun
  | cons turn ts =>
    cases turn with
    | sequencer =>
      have running : Running { s with turns := ts } := ⟨inv.running.fits, inv.running.in_phase, inv.running.bounded⟩
      rw [step_sequencer turns, running.seqStep_eq]
      nofun
    | host h => rw [step_host turns]; exact hostTurn_ne_fault h _ f

/-! ### The walk comes to the whole operation (R36) -/

section
variable (c : Call) (k : Cont) (s : State)

theorem operate_cont : (operate c k s).cont = k := by rw [operate_frame]; exact acquire_cont c k s

theorem operate_port : (operate c k s).port = s.port := by rw [operate_frame]; exact acquire_port c k s

theorem operate_issuer : (operate c k s).issuer = s.issuer := by rw [operate_frame]; exact acquire_issuer c k s

theorem operate_turns : (operate c k s).turns = s.turns := by rw [operate_frame]; exact acquire_turns c k s

/-- What is left to do once the lock is taken is the whole operation. -/
theorem completed_takeLock : completed (takeLock c k s) = runBody (acquire c k s) := by cases c <;> rfl

theorem runToIdle_takeLock : runToIdle longestRun (takeLock c k s) = .next (conclude s.issuer (operate c k s)) := by
  have enough : 4 * Config.nScan + 7 ≤ longestRun := by decide
  rw [runToIdle_running (running_takeLock c k s) nofun enough, completed_takeLock]
  rfl

end

section
variable {c : Call} {k : Cont} {s : State}

theorem conclude_of_last (last : nextCall k (operate c k s) = none) :
    conclude s.issuer (operate c k s) = performCall c k s := by
  rw [performCall_of_last last, conclude, operate_cont, last]

theorem conclude_of_next {h : Nat} {t : State} {c' : Call} {k' : Cont} {p : List Pending}
    (next : nextCall t.cont t = some (c', k')) (port : t.port = p) :
    conclude h t = { t with port := ⟨h, .call c' k'⟩ :: p } := by
  subst port
  simp only [conclude, next]

theorem nextCall_of_not_vout (not_vout : ∀ a, k ≠ .vout a) (t : State) : nextCall k t = none := by
  cases k with
  | vout a => exact absurd rfl (not_vout a)
  | _ => rfl

/-- With a VOUT_MODE word the walk ends with the READ_VOUT read at the head of the port. -/
theorem conclude_vout {a : Addr} {vm : Word} (word : (operate c (.vout a) s).raw = some vm) :
    conclude s.issuer (operate c (.vout a) s) =
      { operate c (.vout a) s with port := ⟨s.issuer, .call (.readword a cmdReadVout) (.l16 vm)⟩ :: s.port } :=
  conclude_of_next (by rw [operate_cont]; exact nextCall_vout_of_some word a) (operate_port c _ s)

/-- That read, run from there by the same agent, ends as the whole sequence does. -/
theorem performCall_l16 {a : Addr} {vm : Word} (word : (operate c (.vout a) s).raw = some vm) :
    performCall (.readword a cmdReadVout) (.l16 vm) (operate c (.vout a) s) = performCall c (.vout a) s := by
  rw [performCall_of_next (nextCall_vout_of_some word a), performCall_of_last rfl, operate_issuer]

end

theorem serve_call {h : Nat} {c : Call} {k : Cont} {rest : List Pending} {s : State} (free : s.lock = .free) :
    serve ⟨h, .call c k⟩ rest s = runCall c k { s with port := rest, issuer := h } := by
  simp only [serve, free]
  rfl

/-- With no turn given and nothing in progress, the operation at the head of the port is run for its agent. -/
theorem step_runs_call {t : State} {h : Nat} {c : Call} {k : Cont} {p : List Pending} (no_turns : t.turns = [])
    (idle : t.phase = .idle) (free : t.lock = .free) (port : t.port = p) (issuer : t.issuer = h) :
    step { t with port := ⟨h, .call c k⟩ :: p } = runCall c k t := by
  subst port issuer
  refine (step_takes_request ?_ ?_ ?_).trans (serve_call ?_)
  exacts [no_turns, idle, rfl, free]

/-- Settles O51: the walk from Acquire comes to `operate`, and its conclusion is `performCall`'s, of which RD_VOUT's second read is
still to be run. -/
theorem sequencerRefinesWhole : Obligations.SequencerRefinesWhole := by
  intro s c k free valid accepted
  refine ⟨beginCall_begins valid accepted k, runCall_runs valid free accepted, fun not_vout => ?whole, ?vout⟩
  case whole => rw [runToIdle_takeLock, conclude_of_last (nextCall_of_not_vout not_vout _)]
  case vout =>
    rintro a rfl
    refine ⟨fun no_word => ?noWord, fun vm word => ⟨_, runToIdle_takeLock c _ s, conclude_vout word, ?lock, fun no_turns valid => ?next⟩⟩
    case noWord => rw [runToIdle_takeLock, conclude_of_last (nextCall_vout_of_none no_word a)]
    case lock => exact conclude_released.1
    case next =>
      have ran := runCall_runs (c := .readword a cmdReadVout) (k := .l16 vm) (s := operate c (.vout a) s) valid rfl rfl
      rw [performCall_l16 word] at ran
      rw [conclude_vout word, ← ran]
      exact step_runs_call ((operate_turns c _ s).trans no_turns) rfl rfl (operate_port c _ s) (operate_issuer c _ s)

end Sys2Proof.Machine
end

section
/-! Who writes the handle, the parameters and LINK (10_state.md R12, R19; 60_exceptions.md R191, R197, R207). -/

namespace Sys2Proof.Machine

/-! ### The handle -/

theorem operate_handle {c : Call} (not_connect : c.op ≠ .connect) (not_disconnect : c.op ≠ .disconnect) (k : Cont) (s : State) :
    (operate c k s).handle = s.handle := by
  cases connected : s.connected with
  | false =>
    by_cases needs : needsHandle c.op = true
    · rw [operate_notConnected needs connected k, release_handle, raise_handle, acquire_handle]
    · cases c with
      | connect => exact absurd rfl not_connect
      | disconnect => exact absurd rfl not_disconnect
      | isconn => rw [operate_isconn]
      | scan | sendbyte | readword | writeword | blockread => exact absurd rfl needs
  | true =>
    cases c with
    | connect => exact absurd rfl not_connect
    | disconnect => exact absurd rfl not_disconnect
    | isconn => rw [operate_isconn]
    | scan =>
      obtain ⟨i, n, scanned⟩ := operate_scan connected k
      rw [scanned]
    | sendbyte a c => rw [operate_sendbyte connected]
    | readword a c => rw [operate_readword connected]
    | writeword a c v => rw [operate_writeword connected]
    | blockread a c => rw [operate_blockread connected]

/-- Only CONNECT and DISCONNECT issue the operation of their name. -/
theorem Issues.op_ne {i : Instr} {c : Call} {k : Cont} (issues : Issues i c k) (not_connect : i ≠ .connect)
    (not_disconnect : i ≠ .disconnect) : c.op ≠ .connect ∧ c.op ≠ .disconnect := by
  rcases issues with planned | ⟨a, cmd, v, w, -, rfl, -⟩
  · cases i with
    | connect => exact absurd rfl not_connect
    | disconnect => exact absurd rfl not_disconnect
    | voutOvFaultLimit a acc | ioutOcFaultLimit a acc | otFaultLimit a acc => cases acc <;> cases planned; exact ⟨nofun, nofun⟩
    | _ => cases planned <;> exact ⟨nofun, nofun⟩
  · exact ⟨nofun, nofun⟩

theorem exec_handle {i : Instr} (not_connect : i ≠ .connect) (not_disconnect : i ≠ .disconnect) {s t : State}
    (ran : exec i s = .next t) : t.handle = s.handle := by
  rcases exec_next ran with ⟨-, rfl⟩ | ⟨_, _, _, _, _, rfl⟩ | ⟨c, k, d, issues, rfl⟩
  · rfl
  · rfl
  · obtain ⟨c_connect, c_disconnect⟩ := issues.op_ne not_connect not_disconnect
    exact performCall_keeps (f := State.handle) (fun _ _ _ => rfl)
      (operate_handle c_connect c_disconnect k { s with draws := d }) fun a _ t =>
      operate_handle (c := .readword a cmdReadVout) nofun nofun _ t

/-! ### The parameters (R19) -/

theorem performCall_params (c : Call) (k : Cont) (s : State) : (performCall c k s).params = s.params :=
  performCall_keeps (f := State.params) (fun _ _ _ => rfl) (operate_params (bodyCarriesUnwritten c) k s)
    fun _ _ t => operate_params (bodyCarriesUnwritten _) _ t

/-- The state answered, if one is, has the parameters `p`. -/
def AnswersWith (p : Params) (o : Out) : Prop := ∀ t, o = .next t → t.params = p

theorem answersWith_next {p : Params} {s : State} (same : s.params = p) : AnswersWith p (.next s) := fun _ answered =>
  Host.Outcome.next.inj answered ▸ same

theorem answersWith_refused {p : Params} {r : Refusal} : AnswersWith p (.refused r) := fun _ answered => nomatch answered

theorem runCall_params (c : Call) (k : Cont) (s : State) : AnswersWith s.params (runCall c k s) := by
  intro t ran
  rcases runCall_next ran with ⟨-, rfl⟩ | rfl
  · rfl
  · exact performCall_params c k s

theorem exec_params (i : Instr) (s : State) : AnswersWith s.params (exec i s) := by
  intro t ran
  rcases exec_next ran with ⟨-, rfl⟩ | ⟨_, _, _, _, _, rfl⟩ | ⟨c, k, d, -, rfl⟩
  · rfl
  · rfl
  · exact performCall_params c k { s with draws := d }

theorem beginCall_params (c : Call) (k : Cont) (s : State) : AnswersWith s.params (beginCall c k s) := by
  unfold beginCall
  split
  · exact answersWith_refused
  · split
    · exact answersWith_refused
    · exact answersWith_next rfl

theorem issue_params (i : Instr) (s : State) : AnswersWith s.params (issue i s) := by
  unfold issue
  split
  · exact exec_params i s
  · exact exec_params i s
  · exact beginCall_params _ _ s
  · unfold beginLimitWrite
    split
    · exact answersWith_refused
    · split
      · exact beginCall_params _ _ _
      · exact answersWith_next rfl
      · exact answersWith_next rfl

theorem hostTurn_params (h : Nat) (s : State) : AnswersWith s.params (hostTurn h s) := by
  rcases hostTurn_cases h s with waits | ⟨e, rejected⟩ | ⟨c, k, rest, -, begins⟩ | ⟨i, rest, -, issues⟩
  · rw [waits]; exact answersWith_next rfl
  · rw [rejected]; exact answersWith_refused
  · rw [begins]; exact beginCall_params c k _
  · rw [issues]; exact issue_params i _

theorem serve_params (p : Pending) (rest : List Pending) (s : State) : AnswersWith s.params (serve p rest s) := by
  rcases serve_cases p rest s with waits | ⟨e, rejected⟩ | ⟨c, k, called⟩ | ⟨i, executed⟩
  · rw [waits]; exact answersWith_next rfl
  · rw [rejected]; exact answersWith_refused
  · rw [called]; exact runCall_params c k _
  · rw [executed]; exact exec_params i _

theorem conclude_params (h : Nat) (s : State) : (conclude h s).params = s.params := by
  obtain ⟨c, k, -, ended⟩ | ⟨-, ended⟩ := conclude_cases h s
  · rw [ended]
  · rw [ended, deliver_params]

theorem runLine_params (s : State) : (runLine s).params = s.params := by
  by_cases release : s.line = .release
  · rw [runLine_release release, conclude_params, release_params]
  · by_cases latch : ∃ c, s.line = .latch c
    · obtain ⟨c, latch⟩ := latch
      rw [runLine_latch latch]
      cases c <;> rfl
    · exact congrArg Fixed.params (runLine_fixed (not_exists.mp latch) release)

theorem seqStep_params (s : State) : AnswersWith s.params (seqStep s) := by
  intro t stepped
  obtain ⟨-, -, rfl⟩ := seqStep_next stepped
  exact runLine_params s

theorem runToIdle_params (n : Nat) (s : State) : AnswersWith s.params (runToIdle n s) := by
  induction n generalizing s with
  | zero => exact answersWith_next rfl
  | succ n ih =>
    unfold runToIdle
    split
    · exact answersWith_next rfl
    · have same := seqStep_params s
      cases stepped : seqStep s with
      | next u => exact same u stepped ▸ ih u
      | fault f => exact fun _ answered => nomatch answered
      | refused r => exact answersWith_refused

theorem step_params (s : State) : AnswersWith s.params (step s) := by
  cases turns : s.turns with
  | nil =>
    by_cases idle : s.phase = .idle
    · cases port : s.port with
      | nil => rw [step_waits_in_idle turns idle port]; exact answersWith_next rfl
      | cons p rest => rw [step_takes_request turns idle port]; exact serve_params p rest s
    · rw [step_in_progress turns idle]; exact runToIdle_params longestRun s
  | cons turn ts =>
    cases turn with
    | sequencer => rw [step_sequencer turns]; exact seqStep_params { s with turns := ts }
    | host h => rw [step_host turns]; exact hostTurn_params h { s with turns := ts }

/-! ### LINK (R128, R207) -/

theorem Issues.plan_ne {i : Instr} {c : Call} {k : Cont} (issues : Issues i c k) : plan i ≠ .codec ∧ plan i ≠ .framer := by
  rcases issues with planned | ⟨_, _, _, _, planned, -⟩ <;> rw [planned] <;> exact ⟨nofun, nofun⟩

theorem exec_link {i : Instr} (no_call : plan i = .codec ∨ plan i = .framer) {s t : State} (ran : exec i s = .next t) :
    t.link = s.link := by
  rcases exec_next ran with ⟨-, rfl⟩ | ⟨_, _, _, _, _, rfl⟩ | ⟨c, k, d, issues, -⟩
  · rfl
  · rfl
  · exact absurd no_call (not_or.mpr issues.plan_ne)

/-- Settles O57: by what an instruction can do (`exec_next`), and for the parameters by what a step can do. -/
theorem whoWritesWhat : Obligations.WhoWritesWhat :=
  ⟨fun _ _ _ not_connect not_disconnect ran => exec_handle not_connect not_disconnect ran, fun s t stepped => step_params s t stepped,
    fun _ _ _ no_call ran => exec_link no_call ran⟩

end Sys2Proof.Machine
end
